-- ==== Sys2Proof/Word.lean ====
section
/-! DEFINITION. The word types of the machine (R6, R7) and the type of the texts a memory cell may carry (R40). -/

namespace Sys2Proof

/-- A memory word and an instruction: 16 bits (R6, R80). Also the width of IR, DR, AC and TR. -/
abbrev Word := BitVec 16

/-- A word address: 12 bits (R6, R60). Also the width of PC and AR. -/
abbrev Addr := BitVec 12

/-- A character, and the width of INPR, OUTR and D (R28, R29, R37). -/
abbrev Byte := BitVec 8

/-- A text: a label, a lexeme, a cell's disassembly text, the assembler's input. -/
abbrev Text := List Char

end Sys2Proof
end

