-- ==== Sys2Proof/Syntax.lean ====
section
/-! DEFINITION. The instructions (one constructor per row of spec/opcode_table.json) and the assembler's output, the
Program that Load consumes (R105).

A register-reference or input-output word may have several selector bits set (R88, R89), and then matches several rows
of the table. A word belongs here to the constructor of its HIGHEST selector bit; the argument `more` holds the word's
bits below that one, as they stand (further selector bits, and in format IO the ignored bits 5:0). `more = 0` is the
canonical word, the one the assembler emits (R86). So the 65536 words and the terms of `Instr` correspond one to one
(log 17). -/

namespace Sys2Proof

/-- The instructions of R86, and the two words without a selector bit (R88, R89). -/
inductive Instr where
  /-- AND (R161): `ind` is bit 15, `addr` bits 11:0 (format M, R81). -/
  | and (ind : Bool) (addr : Addr)
  /-- ADD (R162). -/
  | add (ind : Bool) (addr : Addr)
  /-- LDA (R163). -/
  | lda (ind : Bool) (addr : Addr)
  /-- STA (R164). -/
  | sta (ind : Bool) (addr : Addr)
  /-- BUN (R165). -/
  | bun (ind : Bool) (addr : Addr)
  /-- BSA (R166). -/
  | bsa (ind : Bool) (addr : Addr)
  /-- ISZ (R167). -/
  | isz (ind : Bool) (addr : Addr)
  /-- CLA (R181): 0111 with selector bit 11 (format R, R82). -/
  | cla (more : BitVec 11)
  /-- CLE (R182): selector bit 10. -/
  | cle (more : BitVec 10)
  /-- CMA (R183): selector bit 9. -/
  | cma (more : BitVec 9)
  /-- CME (R184): selector bit 8. -/
  | cme (more : BitVec 8)
  /-- CIR (R185): selector bit 7. -/
  | cir (more : BitVec 7)
  /-- CIL (R186): selector bit 6. -/
  | cil (more : BitVec 6)
  /-- INC (R187): selector bit 5. -/
  | inc (more : BitVec 5)
  /-- SPA (R188): selector bit 4. -/
  | spa (more : BitVec 4)
  /-- SNA (R189): selector bit 3. -/
  | sna (more : BitVec 3)
  /-- SZA (R190): selector bit 2. -/
  | sza (more : BitVec 2)
  /-- SZE (R191): selector bit 1. -/
  | sze (more : BitVec 1)
  /-- HLT (R192): selector bit 0. -/
  | hlt
  /-- The register-reference word without a selector bit, 0x7000 (R88, R193). -/
  | nopRegister
  /-- INP (R211): 1111 with selector bit 11 (format IO, R83). -/
  | inp (more : BitVec 11)
  /-- OUT (R212): selector bit 10. -/
  | out (more : BitVec 10)
  /-- SKI (R213): selector bit 9. -/
  | ski (more : BitVec 9)
  /-- SKO (R214): selector bit 8. -/
  | sko (more : BitVec 8)
  /-- ION (R215): selector bit 7. -/
  | ion (more : BitVec 7)
  /-- IOF (R216): selector bit 6. -/
  | iof (more : BitVec 6)
  /-- The input-output words without a selector bit, 0xF000 to 0xF03F (R89, R218): `ignored` is bits 5:0. -/
  | nopIo (ignored : BitVec 6)
  deriving DecidableEq, Repr

/-- A token of the assembler: "`{line, column, lexeme}`, immutable" (R92). -/
structure Token where
  line : Nat
  column : Nat
  lexeme : Text
  deriving DecidableEq, Repr

/-- A word the assembler emitted: `{address, code, sourceTokens}` (R93, R105). The two numbers are not bounded here:
Load checks them (R246). -/
structure Emitted where
  address : Nat
  code : Nat
  sourceTokens : List Token
  deriving DecidableEq, Repr

/-- "a symbolic name bound to an assembled address" (R11, R94). -/
structure Label where
  name : Text
  address : Nat
  deriving DecidableEq, Repr

/-- The assembler's error categories (R105); `invalidLiteral` is the bad DEC or HEX literal of R98, `missingEnd` the
error that the parameter MISSING_END_IS_ERROR may switch on (D24), and `addressConflict` the "inter-program address
conflicts (only surfaced when multiple compiled programs are merged)". -/
inductive AsmErrorKind where
  | missingArgument
  | invalidAddressLiteral
  | invalidLiteral
  | duplicateLabel
  | unresolvedLabel
  | addressOverflow
  | duplicateStart
  | trailingContent
  | unrecognizedToken
  | missingEnd
  | addressConflict
  deriving DecidableEq, Repr

/-- One diagnostic: its category and the offending token's position (R105); its text is not specified (U13). -/
structure AsmError where
  kind : AsmErrorKind
  line : Nat
  column : Nat
  deriving DecidableEq, Repr

/-- `Program{startAddress, instructions, labels, errors}` (R105). -/
structure Program where
  startAddress : Nat
  instructions : List Emitted
  labels : List Label
  errors : List AsmError
  deriving DecidableEq, Repr

end Sys2Proof
end

