-- ==== Sys2Proof/Decode.lean ====
section
/-! DEFINITION. From words to instructions and back (R80-R90). Decoding is total and rejects nothing: "every one of the
65536 words, fetched as an instruction, selects a family by rule R84 and executes by the catalog" (R87). -/

namespace Sys2Proof

/-- Bits 14:12: the opcode class (R81). -/
def opClassOf (w : Word) : BitVec 3 := w.extractLsb' 12 3

/-- Bit 15: the indirect bit of format M, the family bit of class 7 (R81, R84). -/
def indirectBitOf (w : Word) : Bool := w[15]

/-- Bits 11:0: the address of format M, the selectors of formats R and IO (R81-R83). -/
def addressOf (w : Word) : Addr := w.extractLsb' 0 12

/-- A word 0x7000 to 0x7FFF: the row of its highest selector bit (R82, R88). -/
def decodeRegister (w : Word) : Instr :=
  if w[11] then .cla (w.extractLsb' 0 11)
  else if w[10] then .cle (w.extractLsb' 0 10)
  else if w[9] then .cma (w.extractLsb' 0 9)
  else if w[8] then .cme (w.extractLsb' 0 8)
  else if w[7] then .cir (w.extractLsb' 0 7)
  else if w[6] then .cil (w.extractLsb' 0 6)
  else if w[5] then .inc (w.extractLsb' 0 5)
  else if w[4] then .spa (w.extractLsb' 0 4)
  else if w[3] then .sna (w.extractLsb' 0 3)
  else if w[2] then .sza (w.extractLsb' 0 2)
  else if w[1] then .sze (w.extractLsb' 0 1)
  else if w[0] then .hlt
  else .nopRegister

/-- A word 0xF000 to 0xFFFF: the row of its highest selector bit (R83, R89). -/
def decodeIo (w : Word) : Instr :=
  if w[11] then .inp (w.extractLsb' 0 11)
  else if w[10] then .out (w.extractLsb' 0 10)
  else if w[9] then .ski (w.extractLsb' 0 9)
  else if w[8] then .sko (w.extractLsb' 0 8)
  else if w[7] then .ion (w.extractLsb' 0 7)
  else if w[6] then .iof (w.extractLsb' 0 6)
  else .nopIo (w.extractLsb' 0 6)

/-- The instruction a word is (R84, R86). -/
def decode (w : Word) : Instr :=
  let ind := indirectBitOf w
  let a := addressOf w
  if opClassOf w = 0 then .and ind a
  else if opClassOf w = 1 then .add ind a
  else if opClassOf w = 2 then .lda ind a
  else if opClassOf w = 3 then .sta ind a
  else if opClassOf w = 4 then .bun ind a
  else if opClassOf w = 5 then .bsa ind a
  else if opClassOf w = 6 then .isz ind a
  else if ind then decodeIo w
  else decodeRegister w

/-- An instruction's base code with the bits below it: "OR/sum-combined", the two occupying disjoint bits (R101). -/
def combine {n : Nat} (base : Word) (rest : BitVec n) : Word := base ||| rest.setWidth 16

/-- Format M: the class's base code, the indirect offset 0x8000, the address (R81, R101). -/
def encodeMemory (ind : Bool) (base : Word) (a : Addr) : Word :=
  combine (if ind then base ||| 0x8000 else base) a

/-- The word of an instruction, from the codes of the table in R86. -/
def encode : Instr → Word
  | .and ind a => encodeMemory ind 0x0000 a
  | .add ind a => encodeMemory ind 0x1000 a
  | .lda ind a => encodeMemory ind 0x2000 a
  | .sta ind a => encodeMemory ind 0x3000 a
  | .bun ind a => encodeMemory ind 0x4000 a
  | .bsa ind a => encodeMemory ind 0x5000 a
  | .isz ind a => encodeMemory ind 0x6000 a
  | .cla m => combine 0x7800 m
  | .cle m => combine 0x7400 m
  | .cma m => combine 0x7200 m
  | .cme m => combine 0x7100 m
  | .cir m => combine 0x7080 m
  | .cil m => combine 0x7040 m
  | .inc m => combine 0x7020 m
  | .spa m => combine 0x7010 m
  | .sna m => combine 0x7008 m
  | .sza m => combine 0x7004 m
  | .sze m => combine 0x7002 m
  | .hlt => 0x7001
  | .nopRegister => 0x7000
  | .inp m => combine 0xF800 m
  | .out m => combine 0xF400 m
  | .ski m => combine 0xF200 m
  | .sko m => combine 0xF100 m
  | .ion m => combine 0xF080 m
  | .iof m => combine 0xF040 m
  | .nopIo m => combine 0xF000 m

/-- The decoder on a word given as a number of `nbits` bits, as spec/opcode_table.json numbers them: one 16-bit word,
bits above `nbits` zero. Longer than one word, or a number that does not fit, is no instruction (R80). -/
def decodeTableWord (nbits w : Nat) : Option Instr :=
  if nbits ≤ 16 ∧ w < 2 ^ nbits then some (decode (BitVec.ofNat 16 w)) else none

end Sys2Proof
end

