-- ==== Sys2Proof/Config.lean ====
section
/-! DEFINITION. What the spec fixes once for the machine (R6), and the five points of the ASSEMBLER that the spec
leaves as named parameters (decision D24 of 92_eei_decisions.md). The engine itself takes no parameter (R6). -/

namespace Sys2Proof.Config

/-- MEMWORDS: the number of memory cells, addresses 0x000 to 0xFFF (R6, R60). -/
def memWords : Nat := 4096

/-- The open points of the assembler (R97, R99, R102; D24, U14): arguments of `assemble`, none of which reaches the
engine. -/
structure AsmOptions where
  /-- LABEL_CASE_SENSITIVE: are `x` and `X` two labels. -/
  labelCaseSensitive : Bool
  /-- NUMERIC_OPERANDS: may a memory operand that names no label be a hexadecimal address. -/
  numericOperands : Bool
  /-- MISSING_END_IS_ERROR: is a text without `END` an error. -/
  missingEndIsError : Bool
  /-- UNRESOLVED_CODE: the word emitted for an unresolved reference, from the code assembled so far. -/
  unresolvedCode : Word → Word
  /-- LABEL_NAMED_I: is an `I` after an operand the indirect marker even where a label `I` is defined. -/
  labelNamedI : Bool

end Sys2Proof.Config
end

