-- ==== Sys2Proof/Machine/State.lean ====
section
/-! DEFINITION. The state of the machine (R20), all of it plain data, the reasons a step may stop, and the state after
reset (R41). -/

namespace Sys2Proof.Machine

/-- A memory cell: "{label, addressText, value:16-bit, disassemblyText}" (R40). addressText is the address itself and
is not stored. -/
structure Cell where
  value : Word
  label : Text
  disassembly : Text
  deriving DecidableEq, Repr

/-- A cell after reset: "value 0, label empty, disassembly empty" (R40, R41). Also what an unlisted address holds. -/
def Cell.blank : Cell := ⟨0, [], []⟩

/-- The memory array M (R40, R60): the cells that are not blank, as (address, cell) pairs with rising addresses. The
smallest addressable unit is the 16-bit word (R61), so an entry is a word's cell and no byte order is made up (log 5). -/
abbrev Memory := List (Nat × Cell)

/-- A micro-operation "`X <- v` or one memory write" with its value already determined (R11, R39). -/
inductive MicroOp where
  | setPc (v : Addr)
  | setAr (v : Addr)
  | setIr (v : Word)
  | setDr (v : Word)
  | setAc (v : Word)
  | setTr (v : Word)
  | setOutr (v : Byte)
  | setI (v : Bool)
  | setR (v : Bool)
  | setIen (v : Bool)
  | setE (v : Bool)
  | setFgi (v : Bool)
  | setFgo (v : Bool)
  | setS (v : Bool)
  | setD (v : Byte)
  /-- `SC <- 0`: several in one batch are one clear, not a conflict (R128). -/
  | clearSc
  | write (a : Addr) (v : Word)
  deriving DecidableEq, Repr

/-- What the host may do to the engine between ticks (R250). Observe, breakpoint checks and dumps change nothing and
are plain functions (`Breakpoint.eval`, `dump`). -/
inductive HostAction where
  /-- Load(Program) (R271). -/
  | load (p : Program)
  /-- Start (R272). -/
  | start
  /-- One fused tick (R120). -/
  | tick
  /-- The first half of the split form: compute the batch into Q (R130). -/
  | tickSplit
  /-- Drain the micro-operation at place `k` of Q (R130). -/
  | drain (k : Nat)
  /-- Drain all of Q at once (R129). -/
  | drainAll
  /-- Input(c): the host's argument is a number, checked against the register's width (R252, R246). -/
  | input (c : Nat)
  /-- OutputReady (R253). -/
  | outputReady
  deriving DecidableEq, Repr

/-- The contract violations of R245 and R246: "they signal immediately and should stop execution". -/
inductive Fault where
  /-- SC would be advanced past 6 (R143, R246 (b)). Raised by `tick` and `tickSplit`. Safe: the model stops, and only
  in states that no run from reset reaches. -/
  | scOverflow
  /-- A value outside a register's width (R246 (a), (c)): raised by Input(c) with c above 0xFF and by Load of a Program
  with a field out of range. Safe: the spec says it stops there. -/
  | valueOutOfRange
  /-- A digit index outside a register's width (R246 (d)): raised by `readDigit` alone, which no rule uses so. Safe. -/
  | digitOutOfRange
  deriving DecidableEq, Repr

/-- What the model gives no successor state to. -/
inductive Refusal where
  /-- An instruction without a meaning yet. Raised by `exec` only, and by no arm of it now. Safe. -/
  | notModelled (mnemonic : String)
  /-- Two micro-operations of one tick other than `SC <- 0` have one target: "A model refuses such a tick" (R142, U1).
  Raised by the meanings of register-reference and input-output words and by `tick`. Safe. -/
  | writeConflict
  /-- A tick, Start, Input or OutputReady while Q holds undrained micro-operations (R130, R277; D12, U6). Safe for
  ticks; a host that breaks its duty is outside the model (log 7). -/
  | undrainedQueue
  /-- Drain of a place that Q does not have (log 16). Safe. -/
  | noSuchMicroOp
  /-- Start a second time after one Load, or after HLT (R272; D10, U7). Safe (log 4). -/
  | startedAlready
  /-- Load of a Program with errors or with two words at one address (R271; D9, U8). Safe. -/
  | faultyProgram
  deriving DecidableEq, Repr

/-- The machine state (R20), and two fields of the model's own at the end. -/
structure State where
  /-- Program counter (R22). -/
  pc : Addr
  /-- Address register (R23). -/
  ar : Addr
  /-- Instruction register (R24). -/
  ir : Word
  /-- Data register (R25). -/
  dr : Word
  /-- Accumulator (R26). -/
  ac : Word
  /-- Temporary register (R27). -/
  tr : Word
  /-- Input register (R28). -/
  inpr : Byte
  /-- Output register (R29). -/
  outr : Byte
  /-- I, indirect-addressing flag (R30). -/
  i : Bool
  /-- R, interrupt-raised (R31). -/
  r : Bool
  /-- IEN, interrupt-enable (R32). -/
  ien : Bool
  /-- E, carry (R33). -/
  e : Bool
  /-- FGI, input-flag (R34). -/
  fgi : Bool
  /-- FGO, output-flag (R35). -/
  fgo : Bool
  /-- S, run-flag (R36). -/
  s : Bool
  /-- D, opcode-decode register (R37). -/
  d : Byte
  /-- SC, sequence counter, an integer 0 to 6 (R38). -/
  sc : Fin 7
  /-- Q, the pending micro-operation queue (R39). -/
  q : List MicroOp
  /-- M, the memory array (R40). -/
  mem : Memory
  /-- The MODEL's own: Start may be performed, that is, it has not been since the last Load (R272; log 4). -/
  startable : Bool
  /-- The MODEL's own: the host actions still to come, oldest first; any list is a schedule (R254; log 2). -/
  host : List HostAction
  deriving DecidableEq, Repr

/-- What a step, a meaning or a host action answers. -/
abbrev Out := Host.Outcome State Fault Refusal

/-- The machine after reset: the table of R41. `startable` and `host` are the model's own (log 4, log 2). -/
def State.reset : State where
  pc := 0
  ar := 0
  ir := 0
  dr := 0
  ac := 0
  tr := 0
  inpr := 0
  outr := 0
  i := false
  r := false
  ien := false
  e := false
  fgi := false
  fgo := false
  s := false
  d := 0
  sc := 0
  q := []
  mem := []
  startable := true
  host := []

end Sys2Proof.Machine
end

