-- ==== Sys2Proof/Machine/Ops.lean ====
section
/-! DEFINITION. The named operations over registers, memory and micro-operations, the front ticks that every
instruction shares (R131-R133), the interrupt request (R232) and the interrupt cycle (R236). -/

namespace Sys2Proof.Machine

/-! ### The register abstraction (R21, R246) -/

/-- A write of the number `n` to a register of `width` bits: rejected when out of range, never truncated (R21). -/
def loadChecked (width n : Nat) : Except Fault (BitVec width) :=
  if n < 2 ^ width then .ok (BitVec.ofNat width n) else .error .valueOutOfRange

/-- A read of the digit `k` of a register: rejected outside its width (R246 (d)). -/
def readDigit {width : Nat} (v : BitVec width) (k : Nat) : Except Fault Bool :=
  if k < width then .ok (v.getLsbD k) else .error .digitOutOfRange

/-! ### Memory (R60-R65) -/

/-- The cell at an address; an unlisted one is blank (R41). -/
def Memory.find : Memory → Nat → Cell
  | [], _ => Cell.blank
  | (k, c) :: m, a => if k = a then c else Memory.find m a

/-- Put a cell that is not blank in its place. -/
def Memory.insertAt : Memory → Nat → Cell → Memory
  | [], a, c => [(a, c)]
  | (k, d) :: m, a, c =>
    if a < k then (a, c) :: (k, d) :: m
    else if a = k then (a, c) :: m
    else (k, d) :: Memory.insertAt m a c

/-- Replace the cell at an address, keeping the canonical form: a blank cell is not listed. -/
def Memory.put (m : Memory) (a : Nat) (c : Cell) : Memory :=
  if c = Cell.blank then m.filter (fun entry => entry.1 != a) else m.insertAt a c

/-- The canonical form: addresses below 4096 and strictly rising, no blank cell listed. -/
def Memory.wf : Memory → Bool
  | [] => true
  | (k, c) :: m => decide (k < Config.memWords) && decide (c ≠ Cell.blank) && m.all (fun entry => decide (k < entry.1))
      && Memory.wf m

/-- `MemRead(a, 1)`: the word at an address (R8, R63). -/
def State.readWord (s : State) (a : Addr) : Word := (s.mem.find a.toNat).value

/-- `MemWrite(a, 1, v)`: the whole word is replaced and the cell's label and disassembly text are emptied (R40, R63). -/
def State.writeWord (s : State) (a : Addr) (v : Word) : State :=
  { s with mem := s.mem.put a.toNat ⟨v, [], []⟩ }

/-! ### Micro-operations and batches (R124-R129) -/

/-- What a micro-operation writes. `SC <- 0` has a target no conflict is counted for (R120). -/
inductive Target where
  | pc | ar | ir | dr | ac | tr | outr | i | r | ien | e | fgi | fgo | s | d | sc
  | cell (a : Addr)
  deriving DecidableEq, Repr

/-- The target of a micro-operation (R127). -/
def MicroOp.target : MicroOp → Target
  | .setPc _ => .pc
  | .setAr _ => .ar
  | .setIr _ => .ir
  | .setDr _ => .dr
  | .setAc _ => .ac
  | .setTr _ => .tr
  | .setOutr _ => .outr
  | .setI _ => .i
  | .setR _ => .r
  | .setIen _ => .ien
  | .setE _ => .e
  | .setFgi _ => .fgi
  | .setFgo _ => .fgo
  | .setS _ => .s
  | .setD _ => .d
  | .clearSc => .sc
  | .write a _ => .cell a

/-- Apply one micro-operation: "Each writes its own target and nothing else" (R127). -/
def MicroOp.apply : MicroOp → State → State
  | .setPc v, s => { s with pc := v }
  | .setAr v, s => { s with ar := v }
  | .setIr v, s => { s with ir := v }
  | .setDr v, s => { s with dr := v }
  | .setAc v, s => { s with ac := v }
  | .setTr v, s => { s with tr := v }
  | .setOutr v, s => { s with outr := v }
  | .setI v, s => { s with i := v }
  | .setR v, s => { s with r := v }
  | .setIen v, s => { s with ien := v }
  | .setE v, s => { s with e := v }
  | .setFgi v, s => { s with fgi := v }
  | .setFgo v, s => { s with fgo := v }
  | .setS v, s => { s with s := v }
  | .setD v, s => { s with d := v }
  | .clearSc, s => { s with sc := 0 }
  | .write a v, s => s.writeWord a v

/-- Apply a batch, or what is left of one (R127, R129). -/
def applyAll (ops : List MicroOp) (s : State) : State :=
  ops.foldl (fun t op => op.apply t) s

/-- The targets of a batch other than SC. -/
def targets (ops : List MicroOp) : List Target :=
  (ops.map MicroOp.target).filter (fun t => t != .sc)

/-- The batch has no write conflict: no two micro-operations other than `SC <- 0` have one target (R142). -/
def conflictFree (ops : List MicroOp) : Bool := decide (targets ops).Nodup

/-! ### Front ticks, interrupt request, interrupt cycle -/

/-- `onehot8(k)` (R8). -/
def onehot8 (k : BitVec 3) : Byte := 1#8 <<< k.toNat

/-- T0 to T2 with the word `w` fetched (catalog rules F0, F1, DEC: R131-R133): the state in which T3 begins. -/
def State.fetched (w : Word) (s : State) : State :=
  { s with
    ir := w
    pc := s.pc + 1
    d := onehot8 (opClassOf w)
    ar := addressOf w
    i := indirectBitOf w
    sc := 3 }

/-- The condition of catalog rule IRQ but for its T-states: IEN · (FGI + FGO) (R232). -/
def State.requests (s : State) : Bool := s.ien && (s.fgi || s.fgo)

/-- The end of a register-reference or input-output instruction: the tick T3 with the micro-operations of the fired
rules, beside them r or p (`SC <- 0`) and IRQ, all from the state `t` before the tick (R124, R139 (c), R180, R210). A
write conflict is refused (R142). -/
def executeT3 (ops : List MicroOp) (t : State) : Out :=
  if conflictFree ops then .next { applyAll ops t with sc := 0, r := t.r || t.requests }
  else .refused .writeConflict

/-- TAKING THE INTERRUPT, the machine's only exception: the net effect of INT0, INT1, INT2 (R233-R236). PC is saved in
cell 0, execution goes to address 1, IEN and R are cleared. There is no return instruction: a handler returns by ION and
`BUN 0 I` (R239), whose own rules say what happens. -/
def interruptCycle (s : State) : State :=
  { s.writeWord 0 (s.pc.setWidth 16) with
    tr := s.pc.setWidth 16
    ar := 0
    pc := 1
    ien := false
    r := false
    sc := 0 }

end Sys2Proof.Machine
end

