-- ==== Sys2Proof/Machine/InputOutput.lean ====
section
/-! DEFINITION. The input-output family: the micro-operations of its six catalog rules (R140, R211-R216), and the
meanings of the seven input-output instructions. A meaning runs T0 to T2 and then, in the one tick T3, its own rule
together with the rules of the further selector bits (R210, R218). -/

namespace Sys2Proof.Machine

/-- `AC[15:8] ++ INPR`: the high byte kept, the low byte replaced (R211). -/
def withLowByte (ac : Word) (c : Byte) : Word := ac &&& 0xFF00 ||| c.setWidth 16

/-- The micro-operations of catalog rule INP. INP: `AC <- AC[15:8] ++ INPR; FGI <- 0` (R211). -/
def inpOps (t : State) : List MicroOp := [.setAc (withLowByte t.ac t.inpr), .setFgi false]

/-- The micro-operations of catalog rule OUT. OUT: `OUTR <- AC[7:0]; FGO <- 0` (R212). -/
def outOps (t : State) : List MicroOp := [.setOutr (t.ac.extractLsb' 0 8), .setFgo false]

/-- The micro-operations of catalog rule SKI. SKI: `if FGI = 1 then PC <- PC + 1` (R213). -/
def skiOps (t : State) : List MicroOp := if t.fgi then [.setPc (t.pc + 1)] else []

/-- The micro-operations of catalog rule SKO. SKO: `if FGO = 1 then PC <- PC + 1` (R214). -/
def skoOps (t : State) : List MicroOp := if t.fgo then [.setPc (t.pc + 1)] else []

/-- The micro-operations of catalog rule ION. ION: `IEN <- 1`; IRQ in the same tick reads the old IEN (R215). -/
def ionOps (_ : State) : List MicroOp := [.setIen true]

/-- The micro-operations of catalog rule IOF. IOF: `IEN <- 0`; IRQ in the same tick reads the old IEN (R216). -/
def iofOps (_ : State) : List MicroOp := [.setIen false]

/-- The micro-operations of the rules that the set bits of `sel` = IR[11:0] fire, each from the state `t` before the tick
(R89, R218; bits 5:0 are read by no rule). -/
def ioOps (sel : BitVec 12) (t : State) : List MicroOp :=
  (if sel[11] then inpOps t else []) ++
  (if sel[10] then outOps t else []) ++
  (if sel[9] then skiOps t else []) ++
  (if sel[8] then skoOps t else []) ++
  (if sel[7] then ionOps t else []) ++
  (if sel[6] then iofOps t else [])

/-- INP: `AC <- AC[15:8] ++ INPR; FGI <- 0`, with the rules of the further selector bits `more` (R211). -/
def execInp (more : BitVec 11) (s : State) : Out :=
  let t := s.fetched (encode (.inp more))
  executeT3 (inpOps t ++ ioOps (more.setWidth 12) t) t

/-- OUT: `OUTR <- AC[7:0]; FGO <- 0`, with the rules of the further selector bits `more` (R212). -/
def execOut (more : BitVec 10) (s : State) : Out :=
  let t := s.fetched (encode (.out more))
  executeT3 (outOps t ++ ioOps (more.setWidth 12) t) t

/-- SKI: `if FGI = 1 then PC <- PC + 1`, with the rules of the further selector bits `more` (R213). -/
def execSki (more : BitVec 9) (s : State) : Out :=
  let t := s.fetched (encode (.ski more))
  executeT3 (skiOps t ++ ioOps (more.setWidth 12) t) t

/-- SKO: `if FGO = 1 then PC <- PC + 1`, with the rules of the further selector bits `more` (R214). -/
def execSko (more : BitVec 8) (s : State) : Out :=
  let t := s.fetched (encode (.sko more))
  executeT3 (skoOps t ++ ioOps (more.setWidth 12) t) t

/-- ION: `IEN <- 1`; IRQ in the same tick reads the old IEN, with the rules of the further selector bits `more` (R215). -/
def execIon (more : BitVec 7) (s : State) : Out :=
  let t := s.fetched (encode (.ion more))
  executeT3 (ionOps t ++ ioOps (more.setWidth 12) t) t

/-- IOF: `IEN <- 0`; IRQ in the same tick reads the old IEN, with the rules of the further selector bits `more` (R216). -/
def execIof (more : BitVec 6) (s : State) : Out :=
  let t := s.fetched (encode (.iof more))
  executeT3 (iofOps t ++ ioOps (more.setWidth 12) t) t

/-- The words 0xF000 to 0xF03F: only p fires, a no-operation (R89, R218). -/
def execNopIo (ignored : BitVec 6) (s : State) : Out :=
  executeT3 [] (s.fetched (encode (.nopIo ignored)))

end Sys2Proof.Machine
end

