-- ==== Sys2Proof/Machine/Flags.lean ====
section
/-! DEFINITION. The arithmetic that touches E, and the tests of the skip instructions (R162, R168, R185-R191, R195). -/

namespace Sys2Proof.Machine

/-- `zext_17(x) + zext_17(y)`, the 17-bit sum of ADD (R162). -/
def sum17 (x y : Word) : BitVec 17 := x.setWidth 17 + y.setWidth 17

/-- `sum[15:0]` (R162). -/
def addResult (x y : Word) : Word := (sum17 x y).extractLsb' 0 16

/-- `sum[16]`, the carry to E (R162). -/
def addCarry (x y : Word) : Bool := (sum17 x y)[16]

/-- `E ++ AC[15:1]`, that is `(E << 15) | (AC >> 1)` (R185). -/
def circulateRight (e : Bool) (ac : Word) : Word := (BitVec.ofBool e).setWidth 16 <<< 15 ||| ac >>> 1

/-- `AC[0]`, the new E of CIR (R185). -/
def circulateRightE (ac : Word) : Bool := ac[0]

/-- `AC[14:0] ++ E`, that is `((AC << 1) & 0xFFFF) | E` (R186). -/
def circulateLeft (e : Bool) (ac : Word) : Word := ac <<< 1 ||| (BitVec.ofBool e).setWidth 16

/-- `AC[15]`, the new E of CIL (R186). -/
def circulateLeftE (ac : Word) : Bool := ac[15]

/-- AC[15] = 1: the sign SPA and SNA test (R188, R189). -/
def isNegative (ac : Word) : Bool := ac[15]

/-- AC = 0, all 16 bits (R190). -/
def isZero (ac : Word) : Bool := ac == 0

end Sys2Proof.Machine
end

