-- ==== Sys2Proof/Machine/Operands.lean ====
section
/-! DEFINITION. The operand forms: there is one, the effective address of format M (R85, R137), and the width
adaptations of R65. -/

namespace Sys2Proof.Machine

/-- A 16-bit word into a 12-bit register: bits 11:0 (R65). -/
def low12 (w : Word) : Addr := w.extractLsb' 0 12

/-- A 12-bit value into a 16-bit destination: zero-extended (R65). -/
def zext16 (a : Addr) : Word := a.setWidth 16

/-- The effective address: the address field, or with the indirect bit the low 12 bits of the word it points to; one
level only (R134, R137). -/
def effectiveAddress (s : State) (ind : Bool) (addr : Addr) : Addr :=
  if ind then low12 (s.readWord addr) else addr

/-- T0 to T3 of a memory-reference instruction whose word is `w`: fetched, AR holding the effective address, and the
request of R232 raised if its condition holds (R135-R137, R160). What follows is T4. -/
def State.addressed (w : Word) (s : State) : State :=
  let t := s.fetched w
  { t with
    ar := effectiveAddress s (indirectBitOf w) (addressOf w)
    r := t.r || t.requests
    sc := 4 }

end Sys2Proof.Machine
end

