-- ==== Sys2Proof/Machine/MemoryReference.lean ====
section
/-! DEFINITION. The meanings of AND, ADD, LDA, STA, BUN, BSA, ISZ (R160-R169), each the instruction-level effect of its
rule on the state `t` in which T4 begins (`State.addressed`). None can fail (R160). That the catalog's ticks have the
same effect is stated as an obligation (R146). -/

namespace Sys2Proof.Machine

/-- AND: `DR <- M[ea]; AC <- AC & M[ea]` (R161). -/
def execAnd (ind : Bool) (addr : Addr) (s : State) : Out :=
  let t := s.addressed (encode (.and ind addr))
  let v := t.readWord t.ar
  .next { t with dr := v, ac := t.ac &&& v, sc := 0 }

/-- ADD: `DR <- M[ea]`, the 17-bit sum to E and AC; the old E is not added (R162). -/
def execAdd (ind : Bool) (addr : Addr) (s : State) : Out :=
  let t := s.addressed (encode (.add ind addr))
  let v := t.readWord t.ar
  .next { t with dr := v, ac := addResult t.ac v, e := addCarry t.ac v, sc := 0 }

/-- LDA: `DR <- M[ea]; AC <- M[ea]` (R163). -/
def execLda (ind : Bool) (addr : Addr) (s : State) : Out :=
  let t := s.addressed (encode (.lda ind addr))
  let v := t.readWord t.ar
  .next { t with dr := v, ac := v, sc := 0 }

/-- STA: `M[ea] <- AC` (R164). -/
def execSta (ind : Bool) (addr : Addr) (s : State) : Out :=
  let t := s.addressed (encode (.sta ind addr))
  .next { t.writeWord t.ar t.ac with sc := 0 }

/-- BUN: `PC <- ea` (R165). -/
def execBun (ind : Bool) (addr : Addr) (s : State) : Out :=
  let t := s.addressed (encode (.bun ind addr))
  .next { t with pc := t.ar, sc := 0 }

/-- BSA: the return address goes to M[ea], execution and AR to ea + 1 (R166). -/
def execBsa (ind : Bool) (addr : Addr) (s : State) : Out :=
  let t := s.addressed (encode (.bsa ind addr))
  .next { t.writeWord t.ar (zext16 t.pc) with ar := t.ar + 1, pc := t.ar + 1, sc := 0 }

/-- ISZ: `v = M[ea] + 1` goes to DR and M[ea]; one more is added to PC if v is zero (R167). -/
def execIsz (ind : Bool) (addr : Addr) (s : State) : Out :=
  let t := s.addressed (encode (.isz ind addr))
  let v := t.readWord t.ar + 1
  .next { t.writeWord t.ar v with dr := v, pc := if v = 0 then t.pc + 1 else t.pc, sc := 0 }

end Sys2Proof.Machine
end

