-- ==== Sys2Proof/Machine/RegisterReference.lean ====
section
/-! DEFINITION. The register-reference family: the micro-operations of its twelve catalog rules (R140, R181-R192), and
the meanings of the thirteen register-reference instructions. A meaning runs T0 to T2 and then, in the one tick T3, its
own rule together with the rules of the further selector bits (R180, R193). -/

namespace Sys2Proof.Machine

/-- The micro-operations of catalog rule CLA. CLA: `AC <- 0` (R181). -/
def claOps (_ : State) : List MicroOp := [.setAc 0]

/-- The micro-operations of catalog rule CLE. CLE: `E <- 0` (R182). -/
def cleOps (_ : State) : List MicroOp := [.setE false]

/-- The micro-operations of catalog rule CMA. CMA: `AC <- ~AC` (R183). -/
def cmaOps (t : State) : List MicroOp := [.setAc (~~~t.ac)]

/-- The micro-operations of catalog rule CME. CME: `E <- E'` (R184). -/
def cmeOps (t : State) : List MicroOp := [.setE (!t.e)]

/-- The micro-operations of catalog rule CIR. CIR: `AC <- E ++ AC[15:1]; E <- AC[0]` (R185). -/
def cirOps (t : State) : List MicroOp := [.setAc (circulateRight t.e t.ac), .setE (circulateRightE t.ac)]

/-- The micro-operations of catalog rule CIL. CIL: `AC <- AC[14:0] ++ E; E <- AC[15]` (R186). -/
def cilOps (t : State) : List MicroOp := [.setAc (circulateLeft t.e t.ac), .setE (circulateLeftE t.ac)]

/-- The micro-operations of catalog rule INC. INC: `AC <- AC + 1`, E not written (R187). -/
def incOps (t : State) : List MicroOp := [.setAc (t.ac + 1)]

/-- The micro-operations of catalog rule SPA. SPA: `if AC[15] = 0 then PC <- PC + 1` (R188). -/
def spaOps (t : State) : List MicroOp := if !isNegative t.ac then [.setPc (t.pc + 1)] else []

/-- The micro-operations of catalog rule SNA. SNA: `if AC[15] = 1 then PC <- PC + 1` (R189). -/
def snaOps (t : State) : List MicroOp := if isNegative t.ac then [.setPc (t.pc + 1)] else []

/-- The micro-operations of catalog rule SZA. SZA: `if AC = 0 then PC <- PC + 1` (R190). -/
def szaOps (t : State) : List MicroOp := if isZero t.ac then [.setPc (t.pc + 1)] else []

/-- The micro-operations of catalog rule SZE. SZE: `if E = 0 then PC <- PC + 1` (R191). -/
def szeOps (t : State) : List MicroOp := if !t.e then [.setPc (t.pc + 1)] else []

/-- The micro-operations of catalog rule HLT. HLT: `S <- 0` (R192). -/
def hltOps (_ : State) : List MicroOp := [.setS false]

/-- The micro-operations of the rules that the set bits of `sel` = IR[11:0] fire, each from the state `t` before the tick
(R88, R193). -/
def registerOps (sel : BitVec 12) (t : State) : List MicroOp :=
  (if sel[11] then claOps t else []) ++
  (if sel[10] then cleOps t else []) ++
  (if sel[9] then cmaOps t else []) ++
  (if sel[8] then cmeOps t else []) ++
  (if sel[7] then cirOps t else []) ++
  (if sel[6] then cilOps t else []) ++
  (if sel[5] then incOps t else []) ++
  (if sel[4] then spaOps t else []) ++
  (if sel[3] then snaOps t else []) ++
  (if sel[2] then szaOps t else []) ++
  (if sel[1] then szeOps t else []) ++
  (if sel[0] then hltOps t else [])

/-- CLA: `AC <- 0`, with the rules of the further selector bits `more` (R181). -/
def execCla (more : BitVec 11) (s : State) : Out :=
  let t := s.fetched (encode (.cla more))
  executeT3 (claOps t ++ registerOps (more.setWidth 12) t) t

/-- CLE: `E <- 0`, with the rules of the further selector bits `more` (R182). -/
def execCle (more : BitVec 10) (s : State) : Out :=
  let t := s.fetched (encode (.cle more))
  executeT3 (cleOps t ++ registerOps (more.setWidth 12) t) t

/-- CMA: `AC <- ~AC`, with the rules of the further selector bits `more` (R183). -/
def execCma (more : BitVec 9) (s : State) : Out :=
  let t := s.fetched (encode (.cma more))
  executeT3 (cmaOps t ++ registerOps (more.setWidth 12) t) t

/-- CME: `E <- E'`, with the rules of the further selector bits `more` (R184). -/
def execCme (more : BitVec 8) (s : State) : Out :=
  let t := s.fetched (encode (.cme more))
  executeT3 (cmeOps t ++ registerOps (more.setWidth 12) t) t

/-- CIR: `AC <- E ++ AC[15:1]; E <- AC[0]`, with the rules of the further selector bits `more` (R185). -/
def execCir (more : BitVec 7) (s : State) : Out :=
  let t := s.fetched (encode (.cir more))
  executeT3 (cirOps t ++ registerOps (more.setWidth 12) t) t

/-- CIL: `AC <- AC[14:0] ++ E; E <- AC[15]`, with the rules of the further selector bits `more` (R186). -/
def execCil (more : BitVec 6) (s : State) : Out :=
  let t := s.fetched (encode (.cil more))
  executeT3 (cilOps t ++ registerOps (more.setWidth 12) t) t

/-- INC: `AC <- AC + 1`, E not written, with the rules of the further selector bits `more` (R187). -/
def execInc (more : BitVec 5) (s : State) : Out :=
  let t := s.fetched (encode (.inc more))
  executeT3 (incOps t ++ registerOps (more.setWidth 12) t) t

/-- SPA: `if AC[15] = 0 then PC <- PC + 1`, with the rules of the further selector bits `more` (R188). -/
def execSpa (more : BitVec 4) (s : State) : Out :=
  let t := s.fetched (encode (.spa more))
  executeT3 (spaOps t ++ registerOps (more.setWidth 12) t) t

/-- SNA: `if AC[15] = 1 then PC <- PC + 1`, with the rules of the further selector bits `more` (R189). -/
def execSna (more : BitVec 3) (s : State) : Out :=
  let t := s.fetched (encode (.sna more))
  executeT3 (snaOps t ++ registerOps (more.setWidth 12) t) t

/-- SZA: `if AC = 0 then PC <- PC + 1`, with the rules of the further selector bits `more` (R190). -/
def execSza (more : BitVec 2) (s : State) : Out :=
  let t := s.fetched (encode (.sza more))
  executeT3 (szaOps t ++ registerOps (more.setWidth 12) t) t

/-- SZE: `if E = 0 then PC <- PC + 1`, with the rules of the further selector bits `more` (R191). -/
def execSze (more : BitVec 1) (s : State) : Out :=
  let t := s.fetched (encode (.sze more))
  executeT3 (szeOps t ++ registerOps (more.setWidth 12) t) t

/-- HLT: `S <- 0` (R192). -/
def execHlt (s : State) : Out :=
  let t := s.fetched (encode .hlt)
  executeT3 (hltOps t) t

/-- The word 0x7000: only r fires, a no-operation (R88, R193). -/
def execNopRegister (s : State) : Out :=
  executeT3 [] (s.fetched (encode .nopRegister))

end Sys2Proof.Machine
end

