-- ==== Sys2Proof/Machine/Dispatch.lean ====
section
/-! DEFINITION. exec: the meaning of every instruction, one arm per constructor. It is the whole instruction cycle of
R146, from a state with S = 1, SC = 0, R = 0 and Q empty to the tick that clears SC. -/

namespace Sys2Proof.Machine

open Sys2Proof

def exec (i : Instr) (s : State) : Host.Outcome State Fault Refusal :=
  match i with
  | .and ind addr => Sys2Proof.Machine.execAnd ind addr s
  | .add ind addr => Sys2Proof.Machine.execAdd ind addr s
  | .lda ind addr => Sys2Proof.Machine.execLda ind addr s
  | .sta ind addr => Sys2Proof.Machine.execSta ind addr s
  | .bun ind addr => Sys2Proof.Machine.execBun ind addr s
  | .bsa ind addr => Sys2Proof.Machine.execBsa ind addr s
  | .isz ind addr => Sys2Proof.Machine.execIsz ind addr s
  | .cla more => Sys2Proof.Machine.execCla more s
  | .cle more => Sys2Proof.Machine.execCle more s
  | .cma more => Sys2Proof.Machine.execCma more s
  | .cme more => Sys2Proof.Machine.execCme more s
  | .cir more => Sys2Proof.Machine.execCir more s
  | .cil more => Sys2Proof.Machine.execCil more s
  | .inc more => Sys2Proof.Machine.execInc more s
  | .spa more => Sys2Proof.Machine.execSpa more s
  | .sna more => Sys2Proof.Machine.execSna more s
  | .sza more => Sys2Proof.Machine.execSza more s
  | .sze more => Sys2Proof.Machine.execSze more s
  | .hlt => Sys2Proof.Machine.execHlt s
  | .nopRegister => Sys2Proof.Machine.execNopRegister s
  | .inp more => Sys2Proof.Machine.execInp more s
  | .out more => Sys2Proof.Machine.execOut more s
  | .ski more => Sys2Proof.Machine.execSki more s
  | .sko more => Sys2Proof.Machine.execSko more s
  | .ion more => Sys2Proof.Machine.execIon more s
  | .iof more => Sys2Proof.Machine.execIof more s
  | .nopIo ignored => Sys2Proof.Machine.execNopIo ignored s

end Sys2Proof.Machine
end

