-- ==== Sys2Proof/Machine/Catalog.lean ====
section
/-! DEFINITION. The rule catalog of the control unit, all 41 rules of R140, each a condition on the pre-tick state and
the micro-operations it contributes (R9, R122-R126). It is a constant of the engine (R141). -/

namespace Sys2Proof.Machine

/-! ### Condition signals (R123) -/

/-- `T_k`: SC = k. -/
def sigT (k : Fin 7) (s : State) : Bool := s.sc == k

/-- `D_k`: bit k of D. -/
def sigD (k : Nat) (s : State) : Bool := s.d.getLsbD k

/-- `B_i`: bit i of IR. -/
def sigB (k : Nat) (s : State) : Bool := s.ir.getLsbD k

/-- `r` = D7 · I' · T3. -/
def sigRegister (s : State) : Bool := sigD 7 s && !s.i && sigT 3 s

/-- `p` = D7 · I · T3. -/
def sigIo (s : State) : Bool := sigD 7 s && s.i && sigT 3 s

/-- SC >= 3, that is T0' · T1' · T2' (R232). -/
def sigLate (s : State) : Bool := !sigT 0 s && !sigT 1 s && !sigT 2 s

/-- A rule of the catalog: "a pair condition → list of micro-operations" (R9). -/
structure Rule where
  name : String
  cond : State → Bool
  ops : State → List MicroOp

/-- R'·T0: AR <- PC (R131). -/
def ruleF0 : Rule := ⟨"F0", fun s => !s.r && sigT 0 s, fun s => [.setAr s.pc]⟩

/-- R'·T1: IR <- M[AR]; PC <- PC + 1 (R132). -/
def ruleF1 : Rule := ⟨"F1", fun s => !s.r && sigT 1 s, fun s => [.setIr (s.readWord s.ar), .setPc (s.pc + 1)]⟩

/-- R'·T2: D <- onehot8(IR[14:12]); AR <- IR[11:0]; I <- IR[15] (R133). -/
def ruleDec : Rule := ⟨"DEC", fun s => !s.r && sigT 2 s, fun s => [.setD (onehot8 (opClassOf s.ir)), .setAr (addressOf s.ir), .setI (indirectBitOf s.ir)]⟩

/-- D7'·I·T3: AR <- M[AR][11:0] (R134). -/
def ruleInd : Rule := ⟨"IND", fun s => !sigD 7 s && s.i && sigT 3 s, fun s => [.setAr (low12 (s.readWord s.ar))]⟩

/-- (SC>=3)·IEN·(FGI+FGO): R <- 1 (R232). -/
def ruleIrq : Rule := ⟨"IRQ", fun s => sigLate s && s.requests, fun _ => [.setR true]⟩

/-- R·T0: AR <- 0; TR <- zext_16(PC) (R233). -/
def ruleInt0 : Rule := ⟨"INT0", fun s => s.r && sigT 0 s, fun s => [.setAr 0, .setTr (zext16 s.pc)]⟩

/-- R·T1: M[AR] <- TR; PC <- 0 (R234). -/
def ruleInt1 : Rule := ⟨"INT1", fun s => s.r && sigT 1 s, fun s => [.write s.ar s.tr, .setPc 0]⟩

/-- R·T2: PC <- PC + 1; IEN <- 0; R <- 0; SC <- 0 (R235). -/
def ruleInt2 : Rule := ⟨"INT2", fun s => s.r && sigT 2 s, fun s => [.setPc (s.pc + 1), .setIen false, .setR false, .clearSc]⟩

/-- D0·T4: DR <- M[AR] (R161). -/
def ruleAnd4 : Rule := ⟨"AND4", fun s => sigD 0 s && sigT 4 s, fun s => [.setDr (s.readWord s.ar)]⟩

/-- D0·T5: AC <- AC & DR; SC <- 0 (R161). -/
def ruleAnd5 : Rule := ⟨"AND5", fun s => sigD 0 s && sigT 5 s, fun s => [.setAc (s.ac &&& s.dr), .clearSc]⟩

/-- D1·T4: DR <- M[AR] (R162). -/
def ruleAdd4 : Rule := ⟨"ADD4", fun s => sigD 1 s && sigT 4 s, fun s => [.setDr (s.readWord s.ar)]⟩

/-- D1·T5: AC <- (AC+DR)[15:0]; E <- (AC+DR)[16]; SC <- 0 (R162). -/
def ruleAdd5 : Rule := ⟨"ADD5", fun s => sigD 1 s && sigT 5 s, fun s => [.setAc (addResult s.ac s.dr), .setE (addCarry s.ac s.dr), .clearSc]⟩

/-- D2·T4: DR <- M[AR] (R163). -/
def ruleLda4 : Rule := ⟨"LDA4", fun s => sigD 2 s && sigT 4 s, fun s => [.setDr (s.readWord s.ar)]⟩

/-- D2·T5: AC <- DR; SC <- 0 (R163). -/
def ruleLda5 : Rule := ⟨"LDA5", fun s => sigD 2 s && sigT 5 s, fun s => [.setAc s.dr, .clearSc]⟩

/-- D3·T4: M[AR] <- AC; SC <- 0 (R164). -/
def ruleSta4 : Rule := ⟨"STA4", fun s => sigD 3 s && sigT 4 s, fun s => [.write s.ar s.ac, .clearSc]⟩

/-- D4·T4: PC <- AR; SC <- 0 (R165). -/
def ruleBun4 : Rule := ⟨"BUN4", fun s => sigD 4 s && sigT 4 s, fun s => [.setPc s.ar, .clearSc]⟩

/-- D5·T4: M[AR] <- zext_16(PC); AR <- AR + 1 (R166). -/
def ruleBsa4 : Rule := ⟨"BSA4", fun s => sigD 5 s && sigT 4 s, fun s => [.write s.ar (zext16 s.pc), .setAr (s.ar + 1)]⟩

/-- D5·T5: PC <- AR; SC <- 0 (R166). -/
def ruleBsa5 : Rule := ⟨"BSA5", fun s => sigD 5 s && sigT 5 s, fun s => [.setPc s.ar, .clearSc]⟩

/-- D6·T4: DR <- M[AR] (R167). -/
def ruleIsz4 : Rule := ⟨"ISZ4", fun s => sigD 6 s && sigT 4 s, fun s => [.setDr (s.readWord s.ar)]⟩

/-- D6·T5: DR <- DR + 1 (R167). -/
def ruleIsz5 : Rule := ⟨"ISZ5", fun s => sigD 6 s && sigT 5 s, fun s => [.setDr (s.dr + 1)]⟩

/-- D6·T6: M[AR] <- DR; if DR = 0 then PC <- PC + 1; SC <- 0 (R167). -/
def ruleIsz6 : Rule := ⟨"ISZ6", fun s => sigD 6 s && sigT 6 s, fun s => [.write s.ar s.dr] ++ (if s.dr = 0 then [.setPc (s.pc + 1)] else []) ++ [.clearSc]⟩

/-- r: SC <- 0 (R180). -/
def ruleRegister : Rule := ⟨"r", fun s => sigRegister s, fun _ => [.clearSc]⟩

/-- r·B11 (R181). -/
def ruleCla : Rule := ⟨"CLA", fun s => sigRegister s && sigB 11 s, claOps⟩

/-- r·B10 (R182). -/
def ruleCle : Rule := ⟨"CLE", fun s => sigRegister s && sigB 10 s, cleOps⟩

/-- r·B9 (R183). -/
def ruleCma : Rule := ⟨"CMA", fun s => sigRegister s && sigB 9 s, cmaOps⟩

/-- r·B8 (R184). -/
def ruleCme : Rule := ⟨"CME", fun s => sigRegister s && sigB 8 s, cmeOps⟩

/-- r·B7 (R185). -/
def ruleCir : Rule := ⟨"CIR", fun s => sigRegister s && sigB 7 s, cirOps⟩

/-- r·B6 (R186). -/
def ruleCil : Rule := ⟨"CIL", fun s => sigRegister s && sigB 6 s, cilOps⟩

/-- r·B5 (R187). -/
def ruleInc : Rule := ⟨"INC", fun s => sigRegister s && sigB 5 s, incOps⟩

/-- r·B4 (R188). -/
def ruleSpa : Rule := ⟨"SPA", fun s => sigRegister s && sigB 4 s, spaOps⟩

/-- r·B3 (R189). -/
def ruleSna : Rule := ⟨"SNA", fun s => sigRegister s && sigB 3 s, snaOps⟩

/-- r·B2 (R190). -/
def ruleSza : Rule := ⟨"SZA", fun s => sigRegister s && sigB 2 s, szaOps⟩

/-- r·B1 (R191). -/
def ruleSze : Rule := ⟨"SZE", fun s => sigRegister s && sigB 1 s, szeOps⟩

/-- r·B0 (R192). -/
def ruleHlt : Rule := ⟨"HLT", fun s => sigRegister s && sigB 0 s, hltOps⟩

/-- p: SC <- 0 (R210). -/
def ruleIo : Rule := ⟨"p", fun s => sigIo s, fun _ => [.clearSc]⟩

/-- p·B11 (R211). -/
def ruleInp : Rule := ⟨"INP", fun s => sigIo s && sigB 11 s, inpOps⟩

/-- p·B10 (R212). -/
def ruleOut : Rule := ⟨"OUT", fun s => sigIo s && sigB 10 s, outOps⟩

/-- p·B9 (R213). -/
def ruleSki : Rule := ⟨"SKI", fun s => sigIo s && sigB 9 s, skiOps⟩

/-- p·B8 (R214). -/
def ruleSko : Rule := ⟨"SKO", fun s => sigIo s && sigB 8 s, skoOps⟩

/-- p·B7 (R215). -/
def ruleIon : Rule := ⟨"ION", fun s => sigIo s && sigB 7 s, ionOps⟩

/-- p·B6 (R216). -/
def ruleIof : Rule := ⟨"IOF", fun s => sigIo s && sigB 6 s, iofOps⟩

/-- The complete catalog, in the order of the table of R140. -/
def catalog : List Rule :=
   [ruleF0, ruleF1, ruleDec, ruleInd, ruleIrq, ruleInt0, ruleInt1, ruleInt2] ++
   [ruleAnd4, ruleAnd5, ruleAdd4, ruleAdd5, ruleLda4, ruleLda5, ruleSta4, ruleBun4, ruleBsa4, ruleBsa5,
    ruleIsz4, ruleIsz5, ruleIsz6] ++
   [ruleRegister, ruleCla, ruleCle, ruleCma, ruleCme, ruleCir, ruleCil, ruleInc, ruleSpa, ruleSna, ruleSza,
    ruleSze, ruleHlt] ++
   [ruleIo, ruleInp, ruleOut, ruleSki, ruleSko, ruleIon, ruleIof]

/-- The micro-operations a rule contributes to the batch of a tick: those of a rule whose condition holds in the pre-tick
state, with their values computed from that state (R122, R124). -/
def Rule.fire (s : State) (rho : Rule) : List MicroOp := if rho.cond s then rho.ops s else []

/-- The batch of a tick: the union over the catalog (R120, R125). -/
def batch (s : State) : List MicroOp := catalog.flatMap (Rule.fire s)

end Sys2Proof.Machine
end

