-- ==== Sys2Proof/Machine/Tick.lean ====
section
/-! DEFINITION. The tick, "the machine's only step" (R120), its split form (R130), and the run of ticks to the end of a
cycle (R138). -/

namespace Sys2Proof.Machine

/-- SC advanced by one; none past 6 (R128, R143). -/
def advanceSc (k : Fin 7) : Option (Fin 7) :=
  if h : k.val + 1 < 7 then some ⟨k.val + 1, h⟩ else none

/-- A tick: the no-op of a halted machine (R121), the conflict check (R142), the batch applied as one (R127), SC cleared
or advanced, clear winning (R128), the contract violation of R143. A tick with undrained micro-operations is refused
(R130, D12). -/
def tick (s : State) : Out :=
  if s.q ≠ [] then .refused .undrainedQueue
  else if s.s = false then .next s
  else if conflictFree (batch s) = false then .refused .writeConflict
  else if MicroOp.clearSc ∈ batch s then .next { applyAll (batch s) s with sc := 0 }
  else
    match advanceSc s.sc with
    | some k => .next { applyAll (batch s) s with sc := k }
    | none => .fault .scOverflow

/-- The first half of the split form: the batch goes to Q and SC advances; "an `SC <- 0` entry sets SC := 0" when it is
drained (R130). At SC = 6 with `SC <- 0` in the batch SC stays 6 until then: "the value 7 is never held" (R38; log 8). -/
def tickSplit (s : State) : Out :=
  if s.q ≠ [] then .refused .undrainedQueue
  else if s.s = false then .next s
  else if conflictFree (batch s) = false then .refused .writeConflict
  else
    match advanceSc s.sc with
    | some k => .next { s with q := batch s, sc := k }
    | none => if MicroOp.clearSc ∈ batch s then .next { s with q := batch s } else .fault .scOverflow

/-- `Drain(σ, e)`: apply the micro-operation at place `k` of Q and remove it (R130). -/
def drain (k : Nat) (s : State) : Out :=
  match s.q[k]? with
  | some op => .next { op.apply s with q := s.q.eraseIdx k }
  | none => .refused .noSuchMicroOp

/-- The state when all of Q is drained (R129). -/
def State.drained (s : State) : State := { applyAll s.q s with q := [] }

/-- Ticks until SC is next 0, at most `n` (R138). -/
def runCycle : Nat → State → Out
  | 0, s => .next s
  | n + 1, s =>
    match tick s with
    | .next t => if t.sc = 0 then .next t else runCycle n t
    | .fault f => .fault f
    | .refused r => .refused r

/-- The number of ticks until SC is next 0, if that is at most `n` ticks away (R285). -/
def ticksToCycleEnd : Nat → State → Option Nat
  | 0, _ => none
  | n + 1, s =>
    match tick s with
    | .next t => if t.sc = 0 then some 1 else (ticksToCycleEnd n t).map (· + 1)
    | .fault _ => none
    | .refused _ => none

end Sys2Proof.Machine
end

