-- ==== Sys2Proof/Machine/HostActions.lean ====
section
/-! DEFINITION. What the host does to the engine between ticks (R250-R256, R270-R273): Load, Start, Input, OutputReady,
the ticks and drains it asks for; and what it may observe (the dump, strict mode's signal). -/

namespace Sys2Proof.Machine

/-! ### Load and Start -/

/-- "two or more instructions share an address" (R106): a function of the instruction list, not a stored field. -/
def programConflicts (p : Program) : Bool := !decide (p.instructions.map Emitted.address).Nodup

/-- The Program's fields fit the machine: start and addresses 12 bits, codes 16 (R246 (c)). -/
def programInRange (p : Program) : Bool :=
  decide (p.startAddress < 2 ^ 12) &&
    p.instructions.all (fun w => decide (w.address < 2 ^ 12) && decide (w.code < 2 ^ 16))

/-- Lexemes joined by single spaces: the source text of a statement, mnemonic or directive first (R108). -/
def joinLexemes : List Token → Text
  | [] => []
  | [t] => t.lexeme
  | t :: ts => t.lexeme ++ ' ' :: joinLexemes ts

/-- The label bound to an address, if any; the first where there are several (R271; log 15). -/
def labelAt (labels : List Label) (a : Nat) : Text :=
  match labels.find? (fun l => l.address == a) with
  | some l => l.name
  | none => []

/-- The cell Load writes for an emitted word: its code, the label bound to its address, the text of its statement
(R72, R271). -/
def loadedCell (labels : List Label) (w : Emitted) : Cell :=
  ⟨BitVec.ofNat 16 w.code, labelAt labels w.address, joinLexemes w.sourceTokens⟩

/-- The memory after Load: cleared, then the Program's words (R72). -/
def loadedMemory (p : Program) : Memory :=
  p.instructions.foldl (fun m w => m.put w.address (loadedCell p.labels w)) []

/-- Load(Program) (R271): clear everything, write the words, PC <- startAddress; S stays 0. A field out of range is a
contract violation; a Program with errors or conflicts is refused (log 14). The host's further actions are the host's. -/
def load (p : Program) (s : State) : Out :=
  if programInRange p = false then .fault .valueOutOfRange
  else if p.errors ≠ [] ∨ programConflicts p = true then .refused .faultyProgram
  else
    .next { State.reset with
      mem := loadedMemory p
      pc := BitVec.ofNat 12 p.startAddress
      host := s.host }

/-- Start: "`S <- 1`" and nothing else, once after each Load (R272). -/
def start (s : State) : Out :=
  if s.q ≠ [] then .refused .undrainedQueue
  else if s.startable = false then .refused .startedAlready
  else .next { s with s := true, startable := false }

/-! ### Devices -/

/-- Input(c): `INPR <- c; FGI <- 1`; c above 0xFF is a contract violation (R252). -/
def input (c : Nat) (s : State) : Out :=
  if s.q ≠ [] then .refused .undrainedQueue
  else
    match loadChecked 8 c with
    | .ok v => .next { s with inpr := v, fgi := true }
    | .error f => .fault f

/-- OutputReady: `FGO <- 1` (R253). -/
def outputReady (s : State) : Out :=
  if s.q ≠ [] then .refused .undrainedQueue
  else .next { s with fgo := true }

/-- One host action (R250). -/
def hostAct (a : HostAction) (s : State) : Out :=
  match a with
  | .load p => load p s
  | .start => start s
  | .tick => tick s
  | .tickSplit => tickSplit s
  | .drain k => drain k s
  | .drainAll => .next s.drained
  | .input c => input c s
  | .outputReady => outputReady s

/-! ### Observation: no effect on the machine (R73, R255) -/

/-- Strict mode's report to the caller of a tick: a tick with S = 0 (R247). The mode is the host's option; the state is
the same in both. -/
def illegalStateSignal (strict : Bool) (s : State) : Bool := strict && !s.s

/-- An uppercase hexadecimal digit. -/
def hexDigit (n : Nat) : Char := if n < 10 then Char.ofNat (48 + n) else Char.ofNat (55 + n)

/-- A word as four uppercase hexadecimal digits, most significant first (R74). -/
def hexWord (w : Word) : Text :=
  [hexDigit (w.toNat / 4096), hexDigit (w.toNat / 256 % 16), hexDigit (w.toNat / 16 % 16), hexDigit (w.toNat % 16)]

/-- The words from address `a` on, `n` of them, joined by single spaces. -/
def dumpFrom (m : Memory) : Nat → Nat → Text
  | _, 0 => []
  | a, 1 => hexWord (m.find a).value
  | a, n + 2 => hexWord (m.find a).value ++ ' ' :: dumpFrom m (a + 1) (n + 1)

/-- The memory dump: 4096 tokens joined by single spaces, then whatever terminator the host's format has, which the
spec leaves open (R74, U16). -/
def dump (terminator : Text) (s : State) : Text := dumpFrom s.mem 0 Config.memWords ++ terminator

end Sys2Proof.Machine
end

