-- ==== Sys2Proof/Machine/Step.lean ====
section
/-! DEFINITION. step, and the placing of one instruction for it. -/

namespace Sys2Proof.Machine

/-- One step (R146). The host's next pending action is performed first (R250). With none pending, a tick with undrained
micro-operations is refused (R130), a halted machine stays as it is (R121); and the control unit otherwise runs to the
end of a cycle: the interrupt cycle if R is raised (R236), the instruction at PC if not (R146), or, from within a cycle,
its remaining ticks (R138). -/
def step (s : State) : Host.Outcome State Fault Refusal :=
  match s.host with
  | a :: rest => hostAct a { s with host := rest }
  | [] =>
    if s.q ≠ [] then .refused .undrainedQueue
    else if s.s = false then .next s
    else if s.sc = 0 then
      if s.r then .next (interruptCycle s)
      else exec (decode (s.readWord s.pc)) s
    else runCycle 7 s

/-- The instruction `w` placed where step fetches next, on a machine that has been loaded and started (R271, R272): the
word in the cell at PC, S set, no interrupt raised, at a cycle boundary, nothing queued, no host action pending
(log 3). -/
def State.withFetchWord (s : State) (nbits w : Nat) : State :=
  { s with
    mem := s.mem.put s.pc.toNat ⟨BitVec.ofNat 16 (w % 2 ^ nbits), [], []⟩
    s := true
    r := false
    sc := 0
    q := []
    startable := false
    host := [] }

end Sys2Proof.Machine
end

