-- ==== Sys2Proof/Machine/Breakpoint.lean ====
section
/-! DEFINITION. The host's breakpoint predicates (R257-R261). They read the machine and never change it: the result is a
truth value and the tree with its caches. The tree is the input; its text is not parsed, since the spec does not say which
of `:` and `-` spells which range (R257, U15; log 23). The labels are the Program's (R105), which the host that loaded it
holds: of a cell's metadata only `%mnemonic` reads anything (R40). -/

namespace Sys2Proof.Machine

/-- The upper-case form of a text, to compare without regard to case (R91, R108); of ASCII letters only (log 30). -/
def upperCase (t : Text) : Text := t.map Char.toUpper

/-- The productions of the grammar (R257) as a tree. -/
inductive Breakpoint where
  /-- `@hex`: program-counter equality. -/
  | atPc (a : Nat)
  /-- Program-counter range, lower bound included, upper bound excluded. -/
  | inRange (lo hi : Nat)
  /-- Program-counter not-in-range. -/
  | notInRange (lo hi : Nat)
  /-- `%mnemonic`. -/
  | mnemonic (m : Text)
  /-- `^symbol`: PC equals the address of the label. -/
  | label (symbol : Text)
  /-- `^*symbol`, with its cache: not resolved yet, or resolved to an address or to "symbol not found" (R260). -/
  | indirectLabel (symbol : Text) (cache : Option (Option Nat))
  /-- `!`. -/
  | not (b : Breakpoint)
  /-- `&`. -/
  | and (b c : Breakpoint)
  /-- `|`. -/
  | or (b c : Breakpoint)
  /-- `( )`. -/
  | group (b : Breakpoint)
  deriving DecidableEq, Repr

/-- The address of a label, whatever has been stored there since (R258; vectors 2.8). DESIGN CHOICE: of two
labels with the name the first counts (log 23). -/
def labelAddress (labels : List Label) (name : Text) : Option Nat :=
  (labels.find? (fun l => l.name == name)).map Label.address

/-- The first token of a disassembly text (R108). -/
def firstToken (t : Text) : Text := t.takeWhile (fun c => c != ' ')

/-- `lower <= PC < upper` (R258, C5). -/
def pcInRange (lo hi : Nat) (s : State) : Bool := decide (lo ≤ s.pc.toNat) && decide (s.pc.toNat < hi)

/-- `%m`: the first token of the disassembly text at PC equals m without regard to case (R108, R258). -/
def matchesMnemonic (m : Text) (s : State) : Bool :=
  upperCase (firstToken (s.mem.find s.pc.toNat).disassembly) == upperCase m

/-- `^*symbol` on a resolved address: the value stored there equals PC, as integers (R258); "symbol not found" is
false. -/
def pointsAtPc (resolved : Option Nat) (s : State) : Bool :=
  match resolved with
  | some a => (s.mem.find a).value.toNat == s.pc.toNat
  | none => false

/-- The address `^*symbol` uses: the cached one, or the one found now (R260). -/
def resolveCached (labels : List Label) (symbol : Text) (cache : Option (Option Nat)) : Option Nat :=
  match cache with
  | some r => r
  | none => labelAddress labels symbol

/-- shouldBreak (R258): AND does not evaluate its right side when the left is false, OR evaluates both (R259); the
resolution of `^*symbol` is cached in the tree that is returned, and a label added later is not looked up again (R260). -/
def Breakpoint.eval (labels : List Label) : Breakpoint → State → Bool × Breakpoint
  | .atPc a, s => (s.pc.toNat == a, .atPc a)
  | .inRange lo hi, s => (pcInRange lo hi s, .inRange lo hi)
  | .notInRange lo hi, s => (!pcInRange lo hi s, .notInRange lo hi)
  | .mnemonic m, s => (matchesMnemonic m s, .mnemonic m)
  | .label symbol, s => (labelAddress labels symbol == some s.pc.toNat, .label symbol)
  | .indirectLabel symbol cache, s =>
    (pointsAtPc (resolveCached labels symbol cache) s, .indirectLabel symbol (some (resolveCached labels symbol cache)))
  | .not b, s => (!(b.eval labels s).1, .not (b.eval labels s).2)
  | .and b c, s =>
    if (b.eval labels s).1 then ((c.eval labels s).1, .and (b.eval labels s).2 (c.eval labels s).2)
    else (false, .and (b.eval labels s).2 c)
  | .or b c, s => ((b.eval labels s).1 || (c.eval labels s).1, .or (b.eval labels s).2 (c.eval labels s).2)
  | .group b, s => ((b.eval labels s).1, .group (b.eval labels s).2)

/-- The value of `shouldBreak` on a state: the "breakpoint-fired signal" after a tick (R250, R261). -/
def shouldBreak (labels : List Label) (b : Breakpoint) (s : State) : Bool := (b.eval labels s).1

end Sys2Proof.Machine
end

