-- ==== Sys2Proof/Machine/Assembler.lean ====
section
/-! DEFINITION. The assembler (R91-R107): software outside the hardware block (R4), written here because it defines the
Program that Load consumes. Its five open points are the arguments in `Config.AsmOptions` (D24); other conventions that
the spec does not settle are in log 22. -/

namespace Sys2Proof.Machine

open Sys2Proof.Config

/-! ### Tokens (R91, R92) -/

/-- The token collected so far, if any. -/
def flushToken (line column : Nat) (current : Text) : List Token :=
  if current = [] then [] else [⟨line, column - current.length, current.reverse⟩]

/-- Split on white space, a comma being a token of its own, from `/` to the end of the line a comment (R91, R92).
DESIGN CHOICE: white space is space, tab, carriage return and line feed, what `Char.isWhitespace` takes (log 26). -/
def tokenizeFrom : Nat → Nat → Text → Bool → Text → List Token
  | line, column, current, _, [] => flushToken line column current
  | line, column, current, comment, c :: cs =>
    if c = '\n' then flushToken line column current ++ tokenizeFrom (line + 1) 1 [] false cs
    else if comment then tokenizeFrom line (column + 1) [] true cs
    else if c = '/' then flushToken line column current ++ tokenizeFrom line (column + 1) [] true cs
    else if c = ',' then
      flushToken line column current ++ ⟨line, column, [',']⟩ :: tokenizeFrom line (column + 1) [] false cs
    else if c.isWhitespace then flushToken line column current ++ tokenizeFrom line (column + 1) [] false cs
    else tokenizeFrom line (column + 1) (c :: current) false cs

/-- The tokens of a source text, lines and columns counted from 1. -/
def tokenize (source : Text) : List Token := tokenizeFrom 1 1 [] false source

/-! ### Literals (R95, R98) -/

/-- The value of a digit in a base up to 16. DESIGN CHOICE: the hexadecimal digits a to f may be of either case
(log 29). -/
def digitValue (base : Nat) (c : Char) : Option Nat :=
  let v :=
    if '0' ≤ c ∧ c ≤ '9' then some (c.toNat - 48)
    else if 'A' ≤ c ∧ c ≤ 'F' then some (c.toNat - 55)
    else if 'a' ≤ c ∧ c ≤ 'f' then some (c.toNat - 87)
    else none
  match v with
  | some n => if n < base then some n else none
  | none => none

/-- The digits of a number, most significant first, onto what has been read. -/
def digitsValue (base : Nat) : Nat → Text → Option Nat
  | acc, [] => some acc
  | acc, c :: cs =>
    match digitValue base c with
    | some d => digitsValue base (acc * base + d) cs
    | none => none

/-- An unsigned literal: at least one digit. -/
def unsignedLiteral (base : Nat) (t : Text) : Option Nat :=
  if t = [] then none else digitsValue base 0 t

/-- A 12-bit address literal of ORG and START: hexadecimal, without a prefix (R95). -/
def addressLiteral (t : Text) : Option Nat :=
  match unsignedLiteral 16 t with
  | some n => if n < 2 ^ 12 then some n else none
  | none => none

/-- A data word: a literal from -32768 to 65535, modulo 65536 (R98). DESIGN CHOICE: "signed" is a leading `-`; a leading
`+` makes an invalid literal (log 25). -/
def dataLiteral (base : Nat) (t : Text) : Option Word :=
  match t with
  | '-' :: ds =>
    match unsignedLiteral base ds with
    | some n => if n ≤ 32768 then some (-(BitVec.ofNat 16 n)) else none
    | none => none
  | ds =>
    match unsignedLiteral base ds with
    | some n => if n < 65536 then some (BitVec.ofNat 16 n) else none
    | none => none

/-! ### Statements (R93-R104) -/

/-- What the first token of a statement can be (R95-R100). -/
inductive Keyword where
  | org
  | start
  | stop
  | data (base : Nat)
  /-- A memory-reference mnemonic with its base code. -/
  | memory (code : Word)
  /-- A register-reference or input-output mnemonic with its fixed code. -/
  | fixed (code : Word)
  deriving DecidableEq, Repr

/-- The mnemonics and directives (R86, R107), each mnemonic with the code of its canonical instruction. -/
def keywords : List (Text × Keyword) :=
  [(['O', 'R', 'G'], .org), (['S', 'T', 'A', 'R', 'T'], .start), (['E', 'N', 'D'], .stop),
   (['D', 'E', 'C'], .data 10), (['H', 'E', 'X'], .data 16),
   (['A', 'N', 'D'], .memory (encode (.and false 0))), (['A', 'D', 'D'], .memory (encode (.add false 0))),
   (['L', 'D', 'A'], .memory (encode (.lda false 0))), (['S', 'T', 'A'], .memory (encode (.sta false 0))),
   (['B', 'U', 'N'], .memory (encode (.bun false 0))), (['B', 'S', 'A'], .memory (encode (.bsa false 0))),
   (['I', 'S', 'Z'], .memory (encode (.isz false 0)))] ++
  [(['C', 'L', 'A'], .fixed (encode (.cla 0))), (['C', 'L', 'E'], .fixed (encode (.cle 0))),
   (['C', 'M', 'A'], .fixed (encode (.cma 0))), (['C', 'M', 'E'], .fixed (encode (.cme 0))),
   (['C', 'I', 'R'], .fixed (encode (.cir 0))), (['C', 'I', 'L'], .fixed (encode (.cil 0))),
   (['I', 'N', 'C'], .fixed (encode (.inc 0))), (['S', 'P', 'A'], .fixed (encode (.spa 0))),
   (['S', 'N', 'A'], .fixed (encode (.sna 0))), (['S', 'Z', 'A'], .fixed (encode (.sza 0))),
   (['S', 'Z', 'E'], .fixed (encode (.sze 0))), (['H', 'L', 'T'], .fixed (encode .hlt))] ++
  [(['I', 'N', 'P'], .fixed (encode (.inp 0))), (['O', 'U', 'T'], .fixed (encode (.out 0))),
   (['S', 'K', 'I'], .fixed (encode (.ski 0))), (['S', 'K', 'O'], .fixed (encode (.sko 0))),
   (['I', 'O', 'N'], .fixed (encode (.ion 0))), (['I', 'O', 'F'], .fixed (encode (.iof 0)))]

/-- The keyword a lexeme is, without regard to case (R91). -/
def keywordOf (lexeme : Text) : Option Keyword :=
  (keywords.find? (fun k => k.1 == upperCase lexeme)).map Prod.snd

/-- A word emitted by the first pass, with the label reference still to resolve, if any (R93, R99). -/
structure Pending where
  address : Nat
  code : Word
  reference : Option Token
  sourceTokens : List Token
  deriving DecidableEq, Repr

/-- What the first pass keeps: the address counter, whether a START has appeared, the entry address, the words, labels
and errors, oldest first. -/
structure Pass where
  counter : Nat
  startSeen : Bool
  entry : Option Nat
  words : List Pending
  labels : List Label
  errors : List AsmError
  deriving DecidableEq, Repr

/-- "a running address counter starting at 0" (R93). -/
def Pass.initial : Pass := ⟨0, false, none, [], [], []⟩

/-- Record a diagnostic at a token (R105). -/
def Pass.report (st : Pass) (kind : AsmErrorKind) (t : Token) : Pass :=
  { st with errors := st.errors ++ [AsmError.mk kind t.line t.column] }

/-- Record a word at the address counter and advance it; past 4095 an overflow is recorded and the counter goes on from
0 (R93, R103). -/
def Pass.emit (st : Pass) (at_ : Token) (code : Word) (reference : Option Token) (sourceTokens : List Token) : Pass :=
  let st := { st with words := st.words ++ [Pending.mk st.counter code reference sourceTokens] }
  if st.counter + 1 < Config.memWords then { st with counter := st.counter + 1 }
  else { st.report .addressOverflow at_ with counter := 0 }

/-- Are two label names one name (LABEL_CASE_SENSITIVE, D24). DESIGN CHOICE: where case does not count, only the ASCII
letters a to z are one with A to Z (log 30). -/
def sameLabel (o : AsmOptions) (x y : Text) : Bool :=
  if o.labelCaseSensitive then x == y else upperCase x == upperCase y

/-- A label definition: bound to the address counter, a duplicate being an error that leaves the first (R94). -/
def Pass.define (o : AsmOptions) (st : Pass) (t : Token) : Pass :=
  if st.labels.any (fun l => sameLabel o l.name t.lexeme) then st.report .duplicateLabel t
  else { st with labels := st.labels ++ [Label.mk t.lexeme st.counter] }

/-- The tokens that follow on the same line: a statement's argument stands there (log 22). -/
def argument (t : Token) (rest : List Token) : Option Token :=
  match rest with
  | a :: _ => if a.line = t.line then some a else none
  | [] => none

/-- Does the text define a label named I (R99). DESIGN CHOICE: any `I` or `i` before a comma counts, whatever
LABEL_CASE_SENSITIVE says and wherever in the text it stands (log 27). -/
def definesLabelI : List Token → Bool
  | a :: b :: rest => (upperCase a.lexeme == ['I'] && b.lexeme == [',']) || definesLabelI (b :: rest)
  | _ => false

/-- Is the token after an operand the indirect marker `I` (R99; LABEL_NAMED_I, D24). -/
def isMarker (o : AsmOptions) (labelI : Bool) (arg : Token) (rest : List Token) : Bool :=
  match argument arg rest with
  | some m => upperCase m.lexeme == ['I'] && (o.labelNamedI || !labelI)
  | none => false

/-- A START directive appears: "error if START appears twice", whatever follows either of them (R96). -/
def Pass.noteStart (st : Pass) (t : Token) : Pass :=
  if st.startSeen then st.report .duplicateStart t else { st with startSeen := true }

/-- ORG and START: set the address counter; START also fixes the entry address, which the first valid one keeps (R95,
R96; log 22). -/
def Pass.setOrigin (st : Pass) (isStart : Bool) (arg : Token) : Pass :=
  match addressLiteral arg.lexeme with
  | none => st.report .invalidAddressLiteral arg
  | some a => { st with counter := a, entry := if isStart then st.entry <|> some a else st.entry }

/-- DEC and HEX: emit the data word (R98). -/
def Pass.emitData (st : Pass) (base : Nat) (t arg : Token) : Pass :=
  match dataLiteral base arg.lexeme with
  | none => st.report .invalidLiteral arg
  | some w => st.emit t w none [t, arg]

/-- The "single left-to-right pass over the token stream": for each token the first case of R94 to R104 that applies.
The first argument is fuel; the number of tokens and one more is enough. -/
def firstPass (o : AsmOptions) (labelI : Bool) : Nat → List Token → Pass → Pass
  | 0, _, st => st
  | _ + 1, [], st =>
    if o.missingEndIsError then { st with errors := st.errors ++ [AsmError.mk .missingEnd 0 0] } else st
  | n + 1, t :: rest, st =>
    if (rest.head?.map Token.lexeme) = some [','] then firstPass o labelI n rest.tail (st.define o t)
    else
      match keywordOf t.lexeme, argument t rest with
      | some .stop, _ =>
        match rest with
        | [] => st
        | extra :: _ => st.report .trailingContent extra
      | some (.fixed code), _ => firstPass o labelI n rest (st.emit t code none [t])
      | some .org, some arg => firstPass o labelI n rest.tail (st.setOrigin false arg)
      | some .start, some arg => firstPass o labelI n rest.tail ((st.noteStart t).setOrigin true arg)
      | some .start, none => firstPass o labelI n rest ((st.noteStart t).report .missingArgument t)
      | some (.data base), some arg => firstPass o labelI n rest.tail (st.emitData base t arg)
      | some (.memory code), some arg =>
        if isMarker o labelI arg rest.tail then
          firstPass o labelI n rest.tail.tail
            (st.emit t (code + 0x8000) (some arg) (t :: arg :: rest.tail.take 1))
        else firstPass o labelI n rest.tail (st.emit t code (some arg) [t, arg])
      | some _, none => firstPass o labelI n rest (st.report .missingArgument t)
      | none, _ => firstPass o labelI n rest (st.report .unrecognizedToken t)

/-- The address a reference stands for: a label's, or with NUMERIC_OPERANDS a hexadecimal address (R99, R102, D24).
DESIGN CHOICE: a numeric operand above 0xFFF is no address and so an unresolved label (log 31). -/
def referenceAddress (o : AsmOptions) (labels : List Label) (t : Token) : Option Nat :=
  match labels.find? (fun l => sameLabel o l.name t.lexeme) with
  | some l => some l.address
  | none => if o.numericOperands then addressLiteral t.lexeme else none

/-- Second pass on one word: the label's address is combined into the code (R101, R102). -/
def resolveWord (o : AsmOptions) (labels : List Label) (w : Pending) : Emitted × List AsmError :=
  match w.reference with
  | none => (⟨w.address, w.code.toNat, w.sourceTokens⟩, [])
  | some t =>
    match referenceAddress o labels t with
    | some a => (⟨w.address, (w.code + BitVec.ofNat 16 a).toNat, w.sourceTokens⟩, [])
    | none => (⟨w.address, (o.unresolvedCode w.code).toNat, w.sourceTokens⟩, [⟨.unresolvedLabel, t.line, t.column⟩])

/-- "the entry address defaults to the first instruction's address (or 0 if the program is empty)" (R96, D23). -/
def defaultEntry (words : List Pending) : Nat :=
  match words with
  | [] => 0
  | w :: _ => w.address

/-- The assembler: both passes and every diagnostic (R105). -/
def assemble (o : AsmOptions) (source : Text) : Program :=
  let tokens := tokenize source
  let st := firstPass o (definesLabelI tokens) (tokens.length + 1) tokens Pass.initial
  let resolved := st.words.map (resolveWord o st.labels)
  { startAddress := st.entry.getD (defaultEntry st.words)
    instructions := resolved.map Prod.fst
    labels := st.labels
    errors := st.errors ++ resolved.flatMap Prod.snd }

/-- The diagnostic of a word whose address another program of the merge uses too, at the word's first token (R105). -/
def conflictError (w : Emitted) : AsmError :=
  match w.sourceTokens with
  | [] => ⟨.addressConflict, 0, 0⟩
  | t :: _ => ⟨.addressConflict, t.line, t.column⟩

/-- The "inter-program address conflicts" of a merge: the second program's words at addresses of the first, "checked by
equality of address, not identity" (R105, R106). -/
def mergeConflicts (p q : Program) : List AsmError :=
  (q.instructions.filter (fun w => p.instructions.any (fun v => v.address == w.address))).map conflictError

/-- Programs merged by union (R106), their conflicts reported (R105). DESIGN CHOICE: the entry address is the first one's
(log 22); a label bound in both keeps both bindings, and no duplicate is reported (log 28). -/
def programUnion (p q : Program) : Program :=
  { startAddress := p.startAddress
    instructions := p.instructions ++ q.instructions
    labels := p.labels ++ q.labels
    errors := p.errors ++ q.errors ++ mergeConflicts p q }

end Sys2Proof.Machine
end

