-- ==== Sys2Proof/WellFormed.lean ====
section
/-! DEFINITION. Which instructions can always run: those whose word selects no two rules that write one register
whatever the state is (R142, R193, R218). The types of `Instr` already bound every field; a word that fails a check
here is still an instruction, and the tick that executes it is a write conflict, which R142 refuses.

(Two skips whose tests both hold conflict too, but that depends on the state: see `Safety.lean`.) -/

namespace Sys2Proof

/-- The instruction's family (R84). -/
inductive Family where
  | memoryReference
  | registerReference
  | inputOutput
  deriving DecidableEq, Repr

/-- The family of an instruction (R84). -/
def Instr.family : Instr → Family
  | .and _ _ | .add _ _ | .lda _ _ | .sta _ _ | .bun _ _ | .bsa _ _ | .isz _ _ => .memoryReference
  | .cla _ | .cle _ | .cma _ | .cme _ | .cir _ | .cil _ | .inc _ | .spa _ | .sna _ | .sza _ | .sze _ | .hlt
  | .nopRegister => .registerReference
  | .inp _ | .out _ | .ski _ | .sko _ | .ion _ | .iof _ | .nopIo _ => .inputOutput

/-- The opcode class, bits 14:12 of the word (R86). -/
def Instr.opClass : Instr → BitVec 3
  | .and _ _ => 0
  | .add _ _ => 1
  | .lda _ _ => 2
  | .sta _ _ => 3
  | .bun _ _ => 4
  | .bsa _ _ => 5
  | .isz _ _ => 6
  | .cla _ | .cle _ | .cma _ | .cme _ | .cir _ | .cil _ | .inc _ | .spa _ | .sna _ | .sza _ | .sze _ | .hlt
  | .nopRegister => 7
  | .inp _ | .out _ | .ski _ | .sko _ | .ion _ | .iof _ | .nopIo _ => 7

/-- Bit 15 of the word: the indirect bit of format M, 0 in format R, 1 in format IO (R81-R83). -/
def Instr.bit15 : Instr → Bool
  | .and ind _ | .add ind _ | .lda ind _ | .sta ind _ | .bun ind _ | .bsa ind _ | .isz ind _ => ind
  | .cla _ | .cle _ | .cma _ | .cme _ | .cir _ | .cil _ | .inc _ | .spa _ | .sna _ | .sza _ | .sze _ | .hlt
  | .nopRegister => false
  | .inp _ | .out _ | .ski _ | .sko _ | .ion _ | .iof _ | .nopIo _ => true

/-- Bits 11:0 of the word: the address of format M, the selector bits of formats R and IO (R81-R83, R85). -/
def Instr.low12 : Instr → BitVec 12
  | .and _ a | .add _ a | .lda _ a | .sta _ a | .bun _ a | .bsa _ a | .isz _ a => a
  | .cla m => 0x800 ||| m.setWidth 12
  | .cle m => 0x400 ||| m.setWidth 12
  | .cma m => 0x200 ||| m.setWidth 12
  | .cme m => 0x100 ||| m.setWidth 12
  | .cir m => 0x080 ||| m.setWidth 12
  | .cil m => 0x040 ||| m.setWidth 12
  | .inc m => 0x020 ||| m.setWidth 12
  | .spa m => 0x010 ||| m.setWidth 12
  | .sna m => 0x008 ||| m.setWidth 12
  | .sza m => 0x004 ||| m.setWidth 12
  | .sze m => 0x002 ||| m.setWidth 12
  | .hlt => 0x001
  | .nopRegister => 0x000
  | .inp m => 0x800 ||| m.setWidth 12
  | .out m => 0x400 ||| m.setWidth 12
  | .ski m => 0x200 ||| m.setWidth 12
  | .sko m => 0x100 ||| m.setWidth 12
  | .ion m => 0x080 ||| m.setWidth 12
  | .iof m => 0x040 ||| m.setWidth 12
  | .nopIo m => m.setWidth 12

/-- At most one of CLA, CMA, CIR, CIL, INC: the writers of AC (R193). -/
def oneAcWriter (sel : BitVec 12) : Bool :=
  [sel[11], sel[9], sel[7], sel[6], sel[5]].count true ≤ 1

/-- At most one of CLE, CME, CIR, CIL: the writers of E (R193). -/
def oneEWriter (sel : BitVec 12) : Bool :=
  [sel[10], sel[8], sel[7], sel[6]].count true ≤ 1

/-- Not both ION and IOF: the writers of IEN (R218). -/
def oneIenWriter (sel : BitVec 12) : Bool :=
  !(sel[7] && sel[6])

/-- The instruction's word selects no two rules that always write one register (R193, R218). -/
def Instr.wellFormed (i : Instr) : Bool :=
  match i.family with
  | .memoryReference => true
  | .registerReference => oneAcWriter i.low12 && oneEWriter i.low12
  | .inputOutput => oneIenWriter i.low12

/-- The instruction is one the assembler emits: no bit beside the selector of its row (R86). -/
def Instr.canonical : Instr → Bool
  | .and _ _ | .add _ _ | .lda _ _ | .sta _ _ | .bun _ _ | .bsa _ _ | .isz _ _ | .hlt => true
  | .cla m | .inp m => m = 0
  | .cle m | .out m => m = 0
  | .cma m | .ski m => m = 0
  | .cme m | .sko m => m = 0
  | .cir m | .ion m => m = 0
  | .cil m | .iof m => m = 0
  | .inc m => m = 0
  | .spa m => m = 0
  | .sna m => m = 0
  | .sza m => m = 0
  | .sze m => m = 0
  | .nopRegister | .nopIo _ => false

end Sys2Proof
end

