-- ==== Sys2Proof/Safety.lean ====
section
/-! DEFINITION. What counts as a safe run: the states from which the next step is an instruction or an interrupt cycle,
the instructions that complete, and the invariant of the reachable states (R42). -/

namespace Sys2Proof.Machine

/-- The control unit is at the start of a cycle and nothing is outstanding: no host action pending, Q empty, S = 1,
SC = 0 (R138, R146). -/
abbrev State.AtCycleStart (s : State) : Prop := s.host = [] ∧ s.q = [] ∧ s.s = true ∧ s.sc = 0

/-- The next step is an instruction: the start of a cycle with R = 0 (R138). -/
abbrev State.AtFetch (s : State) : Prop := s.AtCycleStart ∧ s.r = false

/-- How many of the register-reference skips selected by `sel` have a true test (R188-R191, R193). -/
def skipsTaken (sel : BitVec 12) (s : State) : Nat :=
  [sel[4] && !isNegative s.ac, sel[3] && isNegative s.ac, sel[2] && isZero s.ac, sel[1] && !s.e].count true

/-- How many of SKI and SKO selected by `sel` have a true test (R213, R214, R218). -/
def ioSkipsTaken (sel : BitVec 12) (s : State) : Nat :=
  [sel[9] && s.fgi, sel[8] && s.fgo].count true

/-- The well-defined words (R193, R218): no two selected rules write one register in this state. These complete; the
other combined words are write conflicts, which R142 has the model refuse. -/
def completes (i : Instr) (s : State) : Bool :=
  i.wellFormed &&
    match i.family with
    | .memoryReference => true
    | .registerReference => decide (skipsTaken i.low12 s ≤ 1)
    | .inputOutput => decide (ioSkipsTaken i.low12 s ≤ 1)

/-- Ticks of an instruction cycle, independent of data and of the indirect bit (R285). -/
def cycleTicks (i : Instr) : Nat :=
  match i.family with
  | .registerReference | .inputOutput => 4
  | .memoryReference => if i.opClass = 3 ∨ i.opClass = 4 then 5 else if i.opClass = 6 then 7 else 6

/-- R42 at a batch boundary, strengthened to what every tick keeps: D and I agree with IR from SC = 3 on (b), the classes
that reach SC = 4, 5, 6 (e), what the fetch and the interrupt cycle have done by SC = 1 and 2 (c), and a machine that
may be started is not running. (a) is in the type of SC. -/
abbrev State.Boundary (s : State) : Prop :=
  (3 ≤ s.sc → s.d = onehot8 (opClassOf s.ir) ∧ s.i = indirectBitOf s.ir) ∧
  (s.sc = 4 → s.d ≠ 0x80) ∧
  (s.sc = 5 → s.d = 0x01 ∨ s.d = 0x02 ∨ s.d = 0x04 ∨ s.d = 0x20 ∨ s.d = 0x40) ∧
  (s.sc = 6 → s.d = 0x40) ∧
  (s.sc = 1 → if s.r then s.ar = 0 ∧ s.tr = zext16 s.pc else s.ar = s.pc) ∧
  (s.sc = 2 → if s.r then s.pc = 0 else s.pc = s.ar + 1 ∧ s.ir = s.readWord s.ar) ∧
  (s.startable = true → s.s = false ∧ s.sc = 0 ∧ s.r = false)

/-- The invariant of every state that steps reach from reset, whatever the host does: memory in canonical form, no two
entries of Q with one target, and R42 once Q is drained (which changes nothing where Q is empty). -/
abbrev State.Inv (s : State) : Prop :=
  s.mem.wf = true ∧ conflictFree s.q = true ∧ s.drained.Boundary

end Sys2Proof.Machine
end

