-- ==== Sys2Proof/Certificates/Slice0/Obligations.lean ====
section
/-! DEFINITION. The statements for the provers. Each docstring names the rule of spec/ it comes from. -/

open Sys2Proof Sys2Proof.Machine

/-- What R146 says of every instruction cycle: IR = w, D and I from the word, PC = a + 1 (unless the instruction writes
it), AR as given, SC = 0, and R raised if IEN = 1 and FGI or FGO is set. Everything else as in `s`. -/
def Sys2Proof.Machine.State.cycleDone (s : State) (w : Word) (d : Byte) (i : Bool) (ar : Addr) : State :=
  { s with
    ir := w
    d := d
    i := i
    ar := ar
    pc := s.pc + 1
    sc := 0
    r := s.r || (s.ien && (s.fgi || s.fgo)) }

/-- Words written out from the spec's encodings (R81-R83, R86, R88, R89), one or more of each family. That 0x7C00, which has the selectors of CLA and of CLE, is named CLA with CLE's bit in its operand is the model's choice (log 17, DESIGN CHOICE). -/
def Obligations.SpecWordsDecode : Prop :=
  decode 0x2101 = .lda false 0x101 ∧ decode 0xA101 = .lda true 0x101 ∧ decode 0x5FFF = .bsa false 0xFFF ∧
  decode 0xEABC = .isz true 0xABC ∧ decode 0x7001 = .hlt ∧ decode 0x7080 = .cir 0 ∧ decode 0x7C00 = .cla 0x400 ∧
  decode 0x7000 = .nopRegister ∧ decode 0xF040 = .iof 0 ∧ decode 0xF83F = .inp 0x03F ∧ decode 0xF03F = .nopIo 0x3F

/-- R81-R83, R86: no bit of an encoding is dropped, for every instruction and every operand. -/
def Obligations.DecodeOfEncodeIsTheInstruction : Prop :=
  ∀ i : Instr, decode (encode i) = i

/-- R87: every one of the 65536 words is an instruction; with the round trip above, exactly one. -/
def Obligations.EncodeOfDecodeIsTheWord : Prop :=
  ∀ w : Word, encode (decode w) = w

/-- R84. -/
def Obligations.FamilySelection : Prop :=
  ∀ w : Word,
    ((decode w).family = .memoryReference ↔ w.extractLsb' 12 3 ≠ 7) ∧
    ((decode w).family = .registerReference ↔ w.extractLsb' 12 4 = 0b0111) ∧
    ((decode w).family = .inputOutput ↔ w.extractLsb' 12 4 = 0b1111)

/-- R101: code = base + (0x8000 if I) + address. -/
def Obligations.MemoryReferenceCodeIsTheSum : Prop :=
  ∀ (ind : Bool) (a : Addr),
    let rest : Word := (if ind then 0x8000 else 0) + a.setWidth 16
    encode (.and ind a) = 0x0000 + rest ∧
    encode (.add ind a) = 0x1000 + rest ∧
    encode (.lda ind a) = 0x2000 + rest ∧
    encode (.sta ind a) = 0x3000 + rest ∧
    encode (.bun ind a) = 0x4000 + rest ∧
    encode (.bsa ind a) = 0x5000 + rest ∧
    encode (.isz ind a) = 0x6000 + rest

/-- R41: the value of every piece of state after the clearing (the model's own fields left out: log 2, log 4). -/
def Obligations.ResetClearsEverything : Prop :=
  let s := State.reset
  s.pc = 0 ∧ s.ar = 0 ∧ s.ir = 0 ∧ s.dr = 0 ∧ s.ac = 0 ∧ s.tr = 0 ∧ s.inpr = 0 ∧ s.outr = 0 ∧ s.i = false ∧
  s.r = false ∧ s.ien = false ∧ s.e = false ∧ s.fgi = false ∧ s.fgo = false ∧ s.s = false ∧ s.d = 0 ∧ s.sc = 0 ∧
  s.q = [] ∧ ∀ a, s.mem.find a = ⟨0, [], []⟩

/-- R146, R138: with S = 1, SC = 0, R = 0, nothing queued and no host action pending, a step is exec of the instruction the word at PC decodes to; the step adds nothing around exec. -/
def Obligations.StepRunsTheDecodedInstruction : Prop :=
  ∀ (s : State) (i : Instr), s.AtFetch → decode (s.readWord s.pc) = i → step s = exec i s

/-- R121: with S = 0 a tick changes nothing, and so does a step with no host action pending; strict mode reports it. -/
def Obligations.HaltedMachineStays : Prop :=
  ∀ s : State, s.q = [] → s.s = false →
    tick s = .next s ∧ (s.host = [] → step s = .next s) ∧ illegalStateSignal true s = true ∧
      illegalStateSignal false s = false

/-- R236: M[0] <- zext_16(PC), PC <- 1, IEN <- 0, R <- 0, AR <- 0, TR <- zext_16(PC), SC = 0; everything else is unchanged. -/
def Obligations.InterruptCycleEntersTheHandler : Prop :=
  ∀ s : State, s.AtCycleStart → s.r = true →
    ∃ t, step s = .next t ∧
      t = { s with
            mem := t.mem, pc := 0x001, ien := false, r := false, ar := 0x000, tr := s.pc.setWidth 16, sc := 0 } ∧
      t.mem.find 0 = ⟨s.pc.setWidth 16, [], []⟩ ∧ (∀ a, a ≠ 0 → t.mem.find a = s.mem.find a)

/-- R239: `BUN 0 I` returns through the address that the interrupt cycle saved. -/
def Obligations.IndirectBranchReturnsFromInterrupt : Prop :=
  ∀ s t : State, t.readWord 0 = (interruptCycle s).readWord 0 →
    ∃ u, exec (.bun true 0) t = .next u ∧ u.pc = s.pc

/-- R70, R164: a store is seen by the fetch of the very next instruction. -/
def Obligations.StoreIntoTheNextWordIsFetched : Prop :=
  ∀ s t : State, s.AtFetch → decode (s.readWord s.pc) = .sta false (s.pc + 1) →
    (s.ien && (s.fgi || s.fgo)) = false → step s = .next t → step t = exec (decode s.ac) t

/-- R131, R132, R133, R120: the ticks F0, F1 and DEC of a running machine with R = 0, nothing queued. -/
def Obligations.FetchAndDecodeTicks : Prop :=
  ∀ s : State, s.q = [] → s.s = true → s.r = false →
    (s.sc = 0 → tick s = .next { s with ar := s.pc, sc := 1 }) ∧
    (s.sc = 1 → tick s = .next { s with ir := s.readWord s.ar, pc := s.pc + 1, sc := 2 }) ∧
    (s.sc = 2 → tick s = .next { s with
      d := 1#8 <<< (s.ir.extractLsb' 12 3).toNat
      ar := s.ir.extractLsb' 0 12
      i := s.ir[15]
      sc := 3 })

/-- R146 from R131-R138, R140: from a fetch the catalog's ticks up to the next SC = 0 give what exec gives, a next state or the refusal of a write conflict. -/
def Obligations.TicksOfACycleAreTheInstruction : Prop :=
  ∀ s : State, s.AtFetch → runCycle 7 s = exec (decode (s.readWord s.pc)) s

/-- R233-R236: INT0, INT1, INT2 have the net effect of the interrupt cycle, in three ticks. -/
def Obligations.TicksOfTheInterruptCycle : Prop :=
  ∀ s : State, s.AtCycleStart → s.r = true →
    runCycle 7 s = .next (interruptCycle s) ∧ ticksToCycleEnd 7 s = some 3

/-- R285: ticks per cycle, independent of data and of the indirect bit. -/
def Obligations.TickCounts : Prop :=
  ∀ s : State, s.AtFetch → completes (decode (s.readWord s.pc)) s = true →
    ticksToCycleEnd 7 s = some (cycleTicks (decode (s.readWord s.pc)))

/-- R130: after all entries are drained the state equals the fused tick's (at SC = 6 the queued state is the model's choice, log 8; the drained one is not). -/
def Obligations.SplitFormEqualsTick : Prop :=
  ∀ s : State,
    tick s =
      match tickSplit s with
      | .next u => .next u.drained
      | .fault f => .fault f
      | .refused r => .refused r

/-- R125, R129: a batch without write conflict gives one state in whatever order it is applied (on canonical memory). -/
def Obligations.BatchOrderIsIrrelevant : Prop :=
  ∀ (b c : List MicroOp) (s : State), s.mem.wf = true → conflictFree b = true → b.Perm c → applyAll b s = applyAll c s

/-- R143: a tick with SC = 6 in which no rule clears SC, fused or split. -/
def Obligations.ScPastSixIsAContractViolation : Prop :=
  ∀ s : State, s.q = [] → s.s = true → s.sc = 6 → conflictFree (batch s) = true → MicroOp.clearSc ∉ batch s →
    tick s = .fault .scOverflow ∧ tickSplit s = .fault .scOverflow

/-- R42: the invariant of reachable states holds at reset. -/
def Obligations.ResetMeetsTheInvariant : Prop :=
  State.reset.Inv

/-- R42: memory canonical, Q conflict-free, and at batch boundaries D and I agree with IR from SC = 3 on, SC = 4, 5, 6 only in the classes that have those ticks, and the fetch and interrupt ticks' registers; kept by every step, every host action included. -/
def Obligations.EveryStepKeepsTheInvariant : Prop :=
  ∀ s t : State, s.Inv → step s = .next t → t.Inv

/-- R143, R10: from a state that meets the invariant of reachable states no step of the control unit is a contract violation. -/
def Obligations.NoProgramCausesAFault : Prop :=
  ∀ s : State, s.Inv → s.host = [] → ∀ f, step s ≠ .fault f

/-- R137, R65: the address field, or the low 12 bits of the word it points to. -/
def Obligations.EffectiveAddressOfEveryForm : Prop :=
  ∀ (s : State) (a : Addr),
    effectiveAddress s false a = a ∧
    (effectiveAddress s true a).toNat = (s.readWord a).toNat % 4096 ∧
    ∀ w : Word, effectiveAddress (s.writeWord a w) true a = w.extractLsb' 0 12

/-- R161. -/
def Obligations.AndOfMemoryAndAccumulator : Prop :=
  ∀ (ind : Bool) (a : Addr) (s : State),
    let ea := effectiveAddress s ind a
    exec (.and ind a) s =
      .next { s.cycleDone (encode (.and ind a)) 0x01 ind ea with
        dr := s.readWord ea, ac := s.ac &&& s.readWord ea }

/-- R162. -/
def Obligations.AddWithCarryOut : Prop :=
  ∀ (ind : Bool) (a : Addr) (s : State),
    let ea := effectiveAddress s ind a
    exec (.add ind a) s =
      .next { s.cycleDone (encode (.add ind a)) 0x02 ind ea with
        dr := s.readWord ea, ac := s.ac + s.readWord ea
        e := decide (65536 ≤ s.ac.toNat + (s.readWord ea).toNat) }

/-- R163. -/
def Obligations.LoadAccumulator : Prop :=
  ∀ (ind : Bool) (a : Addr) (s : State),
    let ea := effectiveAddress s ind a
    exec (.lda ind a) s =
      .next { s.cycleDone (encode (.lda ind a)) 0x04 ind ea with
        dr := s.readWord ea, ac := s.readWord ea }

/-- R164. -/
def Obligations.StoreAccumulator : Prop :=
  ∀ (ind : Bool) (a : Addr) (s : State),
    let ea := effectiveAddress s ind a
    exec (.sta ind a) s =
      .next { s.cycleDone (encode (.sta ind a)) 0x08 ind ea with
        mem := s.mem.put ea.toNat ⟨s.ac, [], []⟩ }

/-- R165. -/
def Obligations.BranchUnconditionally : Prop :=
  ∀ (ind : Bool) (a : Addr) (s : State),
    let ea := effectiveAddress s ind a
    exec (.bun ind a) s =
      .next { s.cycleDone (encode (.bun ind a)) 0x10 ind ea with
        pc := ea }

/-- R166. -/
def Obligations.BranchAndSaveReturnAddress : Prop :=
  ∀ (ind : Bool) (a : Addr) (s : State),
    let ea := effectiveAddress s ind a
    exec (.bsa ind a) s =
      .next { s.cycleDone (encode (.bsa ind a)) 0x20 ind ea with
        mem := s.mem.put ea.toNat ⟨(s.pc + 1).setWidth 16, [], []⟩, pc := ea + 1, ar := ea + 1 }

/-- R167. -/
def Obligations.IncrementAndSkipIfZero : Prop :=
  ∀ (ind : Bool) (a : Addr) (s : State),
    let ea := effectiveAddress s ind a
    exec (.isz ind a) s =
      .next { s.cycleDone (encode (.isz ind a)) 0x40 ind ea with
        mem := s.mem.put ea.toNat ⟨s.readWord ea + 1, [], []⟩, dr := s.readWord ea + 1
        pc := if s.readWord ea = 0xFFFF then s.pc + 2 else s.pc + 1 }

/-- R181, and R193 for the combined words. -/
def Obligations.ClaClearsTheAccumulator : Prop :=
  encode (.cla 0) = 0x7800 ∧
  (∀ s : State, exec (.cla 0) s =
      .next { s.cycleDone 0x7800 0x80 false 0x800 with ac := 0 }) ∧
  (∀ (more : BitVec 11) (s : State), completes (.cla more) s = true →
      ∃ t, exec (.cla more) s = .next t ∧ t.ac = 0)

/-- R182, R184, and R193. -/
def Obligations.CleAndCmeWriteCarry : Prop :=
  encode (.cle 0) = 0x7400 ∧
  (∀ s : State, exec (.cle 0) s =
      .next { s.cycleDone 0x7400 0x80 false 0x400 with e := false }) ∧
  (∀ (more : BitVec 10) (s : State), completes (.cle more) s = true →
      ∃ t, exec (.cle more) s = .next t ∧ t.e = false) ∧
  encode (.cme 0) = 0x7100 ∧
  (∀ s : State, exec (.cme 0) s =
      .next { s.cycleDone 0x7100 0x80 false 0x100 with e := !s.e }) ∧
  (∀ (more : BitVec 8) (s : State), completes (.cme more) s = true →
      ∃ t, exec (.cme more) s = .next t ∧ t.e = !s.e)

/-- R183, and R193. -/
def Obligations.CmaComplementsTheAccumulator : Prop :=
  encode (.cma 0) = 0x7200 ∧
  (∀ s : State, exec (.cma 0) s =
      .next { s.cycleDone 0x7200 0x80 false 0x200 with ac := 0xFFFF - s.ac }) ∧
  (∀ (more : BitVec 9) (s : State), completes (.cma more) s = true →
      ∃ t, exec (.cma more) s = .next t ∧ t.ac = 0xFFFF - s.ac)

/-- R185, R186, and R193. -/
def Obligations.CirAndCilRotateThroughCarry : Prop :=
  encode (.cir 0) = 0x7080 ∧
  (∀ s : State, exec (.cir 0) s =
      .next { s.cycleDone 0x7080 0x80 false 0x080 with ac := (if s.e then 0x8000 else 0) ||| s.ac >>> 1, e := s.ac[0] }) ∧
  (∀ (more : BitVec 7) (s : State), completes (.cir more) s = true →
      ∃ t, exec (.cir more) s = .next t ∧ t.ac = (if s.e then 0x8000 else 0) ||| s.ac >>> 1 ∧ t.e = s.ac[0]) ∧
  encode (.cil 0) = 0x7040 ∧
  (∀ s : State, exec (.cil 0) s =
      .next { s.cycleDone 0x7040 0x80 false 0x040 with ac := s.ac <<< 1 ||| (if s.e then 1 else 0), e := s.ac[15] }) ∧
  (∀ (more : BitVec 6) (s : State), completes (.cil more) s = true →
      ∃ t, exec (.cil more) s = .next t ∧ t.ac = s.ac <<< 1 ||| (if s.e then 1 else 0) ∧ t.e = s.ac[15])

/-- R187, and R193. -/
def Obligations.IncIncrementsTheAccumulator : Prop :=
  encode (.inc 0) = 0x7020 ∧
  (∀ s : State, exec (.inc 0) s =
      .next { s.cycleDone 0x7020 0x80 false 0x020 with ac := s.ac + 1 }) ∧
  (∀ (more : BitVec 5) (s : State), completes (.inc more) s = true →
      ∃ t, exec (.inc more) s = .next t ∧ t.ac = s.ac + 1)

/-- R188, R189, and R193. -/
def Obligations.SpaAndSnaSkipOnTheSign : Prop :=
  encode (.spa 0) = 0x7010 ∧
  (∀ s : State, exec (.spa 0) s =
      .next { s.cycleDone 0x7010 0x80 false 0x010 with pc := if s.ac[15] = false then s.pc + 2 else s.pc + 1 }) ∧
  (∀ (more : BitVec 4) (s : State), completes (.spa more) s = true →
      ∃ t, exec (.spa more) s = .next t ∧ (s.ac[15] = false → t.pc = s.pc + 2)) ∧
  encode (.sna 0) = 0x7008 ∧
  (∀ s : State, exec (.sna 0) s =
      .next { s.cycleDone 0x7008 0x80 false 0x008 with pc := if s.ac[15] = true then s.pc + 2 else s.pc + 1 }) ∧
  (∀ (more : BitVec 3) (s : State), completes (.sna more) s = true →
      ∃ t, exec (.sna more) s = .next t ∧ (s.ac[15] = true → t.pc = s.pc + 2))

/-- R190, R191, and R193. -/
def Obligations.SzaAndSzeSkipOnZero : Prop :=
  encode (.sza 0) = 0x7004 ∧
  (∀ s : State, exec (.sza 0) s =
      .next { s.cycleDone 0x7004 0x80 false 0x004 with pc := if s.ac = 0 then s.pc + 2 else s.pc + 1 }) ∧
  (∀ (more : BitVec 2) (s : State), completes (.sza more) s = true →
      ∃ t, exec (.sza more) s = .next t ∧ (s.ac = 0 → t.pc = s.pc + 2)) ∧
  encode (.sze 0) = 0x7002 ∧
  (∀ s : State, exec (.sze 0) s =
      .next { s.cycleDone 0x7002 0x80 false 0x002 with pc := if s.e = false then s.pc + 2 else s.pc + 1 }) ∧
  (∀ (more : BitVec 1) (s : State), completes (.sze more) s = true →
      ∃ t, exec (.sze more) s = .next t ∧ (s.e = false → t.pc = s.pc + 2))

/-- R192, R144: HLT (0x7001). -/
def Obligations.HltClearsTheRunFlag : Prop :=
  encode .hlt = 0x7001 ∧
  (∀ s : State, exec .hlt s = .next { s.cycleDone 0x7001 0x80 false 0x001 with s := false }) ∧
  (∀ (i : Instr) (s t : State), exec i s = .next t → s.s = true →
    (t.s = false ↔ i.family = .registerReference ∧ i.low12[0] = true))

/-- R88, R89: 0x7000 and 0xF000 to 0xF03F only pass through the cycle. -/
def Obligations.WordsWithoutSelectorDoNothing : Prop :=
  (∀ s : State, exec .nopRegister s = .next (s.cycleDone 0x7000 0x80 false 0x000)) ∧
  (∀ (ignored : BitVec 6) (s : State),
    exec (.nopIo ignored) s = .next (s.cycleDone (0xF000 + ignored.setWidth 16) 0x80 true (ignored.setWidth 12)))

/-- R211, and R218 for the combined words. -/
def Obligations.InpTakesTheInputCharacter : Prop :=
  encode (.inp 0) = 0xF800 ∧
  (∀ s : State, exec (.inp 0) s =
      .next { s.cycleDone 0xF800 0x80 true 0x800 with ac := (s.ac &&& 0xFF00) ||| s.inpr.setWidth 16, fgi := false }) ∧
  (∀ (more : BitVec 11) (s : State), completes (.inp more) s = true →
      ∃ t, exec (.inp more) s = .next t ∧ t.ac = (s.ac &&& 0xFF00) ||| s.inpr.setWidth 16 ∧ t.fgi = false)

/-- R212, and R218. -/
def Obligations.OutPresentsTheOutputCharacter : Prop :=
  encode (.out 0) = 0xF400 ∧
  (∀ s : State, exec (.out 0) s =
      .next { s.cycleDone 0xF400 0x80 true 0x400 with outr := s.ac.extractLsb' 0 8, fgo := false }) ∧
  (∀ (more : BitVec 10) (s : State), completes (.out more) s = true →
      ∃ t, exec (.out more) s = .next t ∧ t.outr = s.ac.extractLsb' 0 8 ∧ t.fgo = false)

/-- R213, R214, and R218. -/
def Obligations.SkiAndSkoSkipOnTheFlags : Prop :=
  encode (.ski 0) = 0xF200 ∧
  (∀ s : State, exec (.ski 0) s =
      .next { s.cycleDone 0xF200 0x80 true 0x200 with pc := if s.fgi = true then s.pc + 2 else s.pc + 1 }) ∧
  (∀ (more : BitVec 9) (s : State), completes (.ski more) s = true →
      ∃ t, exec (.ski more) s = .next t ∧ (s.fgi = true → t.pc = s.pc + 2)) ∧
  encode (.sko 0) = 0xF100 ∧
  (∀ s : State, exec (.sko 0) s =
      .next { s.cycleDone 0xF100 0x80 true 0x100 with pc := if s.fgo = true then s.pc + 2 else s.pc + 1 }) ∧
  (∀ (more : BitVec 8) (s : State), completes (.sko more) s = true →
      ∃ t, exec (.sko more) s = .next t ∧ (s.fgo = true → t.pc = s.pc + 2))

/-- R215, R216, and R218. -/
def Obligations.IonAndIofWriteInterruptEnable : Prop :=
  encode (.ion 0) = 0xF080 ∧
  (∀ s : State, exec (.ion 0) s =
      .next { s.cycleDone 0xF080 0x80 true 0x080 with ien := true }) ∧
  (∀ (more : BitVec 7) (s : State), completes (.ion more) s = true →
      ∃ t, exec (.ion more) s = .next t ∧ t.ien = true) ∧
  encode (.iof 0) = 0xF040 ∧
  (∀ s : State, exec (.iof 0) s =
      .next { s.cycleDone 0xF040 0x80 true 0x040 with ien := false }) ∧
  (∀ (more : BitVec 6) (s : State), completes (.iof more) s = true →
      ∃ t, exec (.iof more) s = .next t ∧ t.ien = false)

/-- R180, R193: every well-defined register-reference word, by its selector bits, all read from the pre-tick state. -/
def Obligations.RegisterWordEffect : Prop :=
  ∀ (i : Instr) (s : State), i.family = .registerReference → completes i s = true →
    let sel := i.low12
    exec i s = .next { s.cycleDone (encode i) 0x80 false sel with
      ac :=
        if sel[11] then 0
        else if sel[9] then ~~~s.ac
        else if sel[7] then (if s.e then 0x8000 else 0) ||| s.ac >>> 1
        else if sel[6] then s.ac <<< 1 ||| (if s.e then 1 else 0)
        else if sel[5] then s.ac + 1
        else s.ac
      e :=
        if sel[10] then false
        else if sel[8] then !s.e
        else if sel[7] then s.ac[0]
        else if sel[6] then s.ac[15]
        else s.e
      pc :=
        if (sel[4] && !s.ac[15]) || (sel[3] && s.ac[15]) || (sel[2] && s.ac == 0) || (sel[1] && !s.e) then s.pc + 2
        else s.pc + 1
      s := s.s && !sel[0] }

/-- R210, R218: every well-defined input-output word, by its selector bits, bits 5:0 read by no rule. -/
def Obligations.InputOutputWordEffect : Prop :=
  ∀ (i : Instr) (s : State), i.family = .inputOutput → completes i s = true →
    let sel := i.low12
    exec i s = .next { s.cycleDone (encode i) 0x80 true sel with
      ac := if sel[11] then (s.ac &&& 0xFF00) ||| s.inpr.setWidth 16 else s.ac
      fgi := s.fgi && !sel[11]
      outr := if sel[10] then s.ac.extractLsb' 0 8 else s.outr
      fgo := s.fgo && !sel[10]
      pc := if (sel[9] && s.fgi) || (sel[8] && s.fgo) then s.pc + 2 else s.pc + 1
      ien := if sel[7] then true else if sel[6] then false else s.ien }

/-- R142: a word two of whose fired rules write one register is refused, the whole instruction and the tick T3 alike; every other word completes. -/
def Obligations.WriteConflictsAreRefused : Prop :=
  ∀ (i : Instr) (s : State),
    (completes i s = false → exec i s = .refused .writeConflict) ∧
    (completes i s = true → ∃ t, exec i s = .next t)

/-- R180 (what the family never changes), R193: CLA to HLT and 0x7000, combined words included. -/
def Obligations.RegisterReferenceFrame : Prop :=
  ∀ (i : Instr) (s t : State), i.family = .registerReference → exec i s = .next t →
    (∀ a, t.mem.find a = s.mem.find a) ∧ t.tr = s.tr ∧ t.dr = s.dr ∧ t.inpr = s.inpr ∧ t.outr = s.outr ∧ t.ien = s.ien ∧ t.fgi = s.fgi ∧ t.fgo = s.fgo ∧
    t.q = s.q ∧ t.startable = s.startable ∧ t.host = s.host ∧
    (i.low12[11] = false → i.low12[9] = false → i.low12[7] = false → i.low12[6] = false → i.low12[5] = false →
      t.ac = s.ac) ∧
    (i.low12[10] = false → i.low12[8] = false → i.low12[7] = false → i.low12[6] = false → t.e = s.e) ∧
    (i.low12[0] = false → t.s = s.s)

/-- R210, R211-R216: INP, OUT, SKI, SKO, ION, IOF and the words without a selector. -/
def Obligations.InputOutputFrame : Prop :=
  ∀ (i : Instr) (s t : State), i.family = .inputOutput → exec i s = .next t →
    (∀ a, t.mem.find a = s.mem.find a) ∧ t.e = s.e ∧ t.dr = s.dr ∧ t.tr = s.tr ∧ t.s = s.s ∧ t.inpr = s.inpr ∧
    t.q = s.q ∧ t.startable = s.startable ∧ t.host = s.host ∧
    (i.low12[11] = false → t.ac = s.ac ∧ t.fgi = s.fgi) ∧ (i.low12[10] = false → t.outr = s.outr ∧ t.fgo = s.fgo) ∧
    (i.low12[7] = false → i.low12[6] = false → t.ien = s.ien)

/-- R160-R163, R165: AND, ADD, LDA, BUN store nothing. -/
def Obligations.LoadingInstructionsFrame : Prop :=
  ∀ (i : Instr) (ind : Bool) (a : Addr) (s t : State),
    i = .and ind a ∨ i = .add ind a ∨ i = .lda ind a ∨ i = .bun ind a → exec i s = .next t →
    (∀ b, t.mem.find b = s.mem.find b) ∧ t.tr = s.tr ∧ t.inpr = s.inpr ∧ t.outr = s.outr ∧ t.ien = s.ien ∧ t.fgi = s.fgi ∧ t.fgo = s.fgo ∧ t.s = s.s ∧
    t.q = s.q ∧ t.startable = s.startable ∧ t.host = s.host ∧ (i ≠ .add ind a → t.e = s.e) ∧
    (i = .bun ind a → t.ac = s.ac ∧ t.dr = s.dr)

/-- R160, R164, R166, R167: STA, BSA, ISZ change the one cell at the effective address, which is computed as the meaning computes it. -/
def Obligations.StoringInstructionsFrame : Prop :=
  ∀ (i : Instr) (ind : Bool) (a : Addr) (s t : State),
    i = .sta ind a ∨ i = .bsa ind a ∨ i = .isz ind a → exec i s = .next t →
    (∀ b, b ≠ (effectiveAddress s ind a).toNat → t.mem.find b = s.mem.find b) ∧
    (t.mem.find (effectiveAddress s ind a).toNat).label = [] ∧
    (t.mem.find (effectiveAddress s ind a).toNat).disassembly = [] ∧
    t.ac = s.ac ∧ t.e = s.e ∧ t.tr = s.tr ∧ t.inpr = s.inpr ∧ t.outr = s.outr ∧ t.ien = s.ien ∧ t.fgi = s.fgi ∧ t.fgo = s.fgo ∧ t.s = s.s ∧
    t.q = s.q ∧ t.startable = s.startable ∧ t.host = s.host ∧ (i ≠ .isz ind a → t.dr = s.dr)

/-- R232, R146: whatever the instruction, R after it is the old R or IEN and a flag, as they were before it; no instruction lowers R. -/
def Obligations.EveryInstructionSamplesTheRequest : Prop :=
  ∀ (i : Instr) (s t : State), exec i s = .next t → t.r = (s.r || (s.ien && (s.fgi || s.fgo)))

/-- R33: E is written by ADD, CLE, CME, CIR, CIL only. -/
def Obligations.OnlyFiveInstructionsWriteCarry : Prop :=
  ∀ (i : Instr) (s t : State), exec i s = .next t → t.e ≠ s.e →
    (∃ ind a, i = .add ind a) ∨
      (i.family = .registerReference ∧
        (i.low12[10] = true ∨ i.low12[8] = true ∨ i.low12[7] = true ∨ i.low12[6] = true))

/-- R32, R34, R35: no instruction but ION sets IEN, and none sets FGI or FGO. -/
def Obligations.OnlyIonEnablesInterrupts : Prop :=
  ∀ (i : Instr) (s t : State), exec i s = .next t →
    (s.ien = false → t.ien = true → i.family = .inputOutput ∧ i.low12[7] = true) ∧
    (s.ien = true → t.ien = false → i.family = .inputOutput ∧ i.low12[6] = true) ∧
    (t.fgi = true → s.fgi = true) ∧ (t.fgo = true → s.fgo = true)

/-- R27, R28: no instruction touches TR or INPR, nor the queue or what is the host's. -/
def Obligations.InstructionsLeaveOtherUnitsAlone : Prop :=
  ∀ (i : Instr) (s t : State), exec i s = .next t →
    t.tr = s.tr ∧ t.inpr = s.inpr ∧ t.q = s.q ∧ t.startable = s.startable ∧ t.host = s.host

/-- R146: at the end of every instruction SC = 0 and IR, D, I hold the word, its one-hot class and its bit 15. -/
def Obligations.EveryCycleEndsDecoded : Prop :=
  ∀ (i : Instr) (s t : State), exec i s = .next t →
    t.sc = 0 ∧ t.ir = encode i ∧ t.d = 1#8 <<< ((encode i).extractLsb' 12 3).toNat ∧ t.i = (encode i)[15] ∧
    (i.family ≠ .memoryReference → t.ar = (encode i).extractLsb' 0 12)

/-- R252, R253, R246 (c). -/
def Obligations.InputAndOutputReadySetTheirFlags : Prop :=
  ∀ (s : State), s.q = [] →
    (∀ c : Nat, c < 256 → ∃ v : Byte, v.toNat = c ∧ hostAct (.input c) s = .next { s with inpr := v, fgi := true }) ∧
    (∀ c : Nat, 256 ≤ c → hostAct (.input c) s = .fault .valueOutOfRange) ∧
    hostAct .outputReady s = .next { s with fgo := true }

/-- R272: S <- 1 and nothing else (beside the model's own record, log 4); a second Start is refused. -/
def Obligations.StartSetsOnlyTheRunFlagOnce : Prop :=
  ∀ s : State, s.q = [] → s.startable = true →
    hostAct .start s = .next { s with s := true, startable := false } ∧
    ∀ t, hostAct .start s = .next t → hostAct .start t = .refused .startedAlready

/-- R270, R271, R72: a Program without errors or conflicts and in range (the model's own startable and host after it: log 4, log 2). -/
def Obligations.LoadResetsAndPlacesTheProgram : Prop :=
  ∀ (p : Program) (s : State), programInRange p = true → p.errors = [] → programConflicts p = false →
    ∃ t, hostAct (.load p) s = .next t ∧ t = { State.reset with pc := t.pc, mem := t.mem, host := s.host } ∧
      t.pc.toNat = p.startAddress ∧ t.mem.wf = true ∧
      (∀ w ∈ p.instructions, (t.mem.find w.address).value.toNat = w.code) ∧
      (∀ a, (∀ w ∈ p.instructions, w.address ≠ a) → t.mem.find a = ⟨0, [], []⟩)

/-- R271, R246 (c): errors or two words at one address refuse the Load; a field out of range is a contract violation (which of the two comes first is the model's choice, log 14). -/
def Obligations.FaultyProgramsAreNotLoaded : Prop :=
  ∀ (p : Program) (s : State),
    (programInRange p = false → hostAct (.load p) s = .fault .valueOutOfRange) ∧
    (programInRange p = true → p.errors ≠ [] → hostAct (.load p) s = .refused .faultyProgram) ∧
    (programInRange p = true → ∀ (u v : Emitted) (before between after : List Emitted),
      p.instructions = before ++ u :: between ++ v :: after → u.address = v.address →
      hostAct (.load p) s = .refused .faultyProgram)

/-- R74, U16: 4096 four-digit words joined by single spaces, before any terminator; the word at address 0 comes first. -/
def Obligations.DumpHasTwentyThousandCharacters : Prop :=
  ∀ (s : State) (terminator : Text),
    (dump terminator s).length = 20479 + terminator.length ∧ (dump terminator s).take 4 = hexWord (s.readWord 0)

/-- R258: lower bound included, upper bound excluded; not-in-range is the complement; a label predicate compares PC, an indirect one not yet cached the word stored at the label, with the label's address in the Program's label list (which of two labels of one name counts is the model's choice, log 23); AND, OR and NOT are boolean whatever is cached. -/
def Obligations.BreakpointRangesAreHalfOpen : Prop :=
  ∀ (labels : List Label) (s : State) (lo hi : Nat) (name : Text) (b c : Breakpoint),
    (shouldBreak labels (.inRange lo hi) s = true ↔ lo ≤ s.pc.toNat ∧ s.pc.toNat < hi) ∧
    shouldBreak labels (.notInRange lo hi) s = !shouldBreak labels (.inRange lo hi) s ∧
    (shouldBreak labels (.label name) s = true ↔ labelAddress labels name = some s.pc.toNat) ∧
    (shouldBreak labels (.indirectLabel name none) s = true ↔
      ∃ a, labelAddress labels name = some a ∧ (s.mem.find a).value.toNat = s.pc.toNat) ∧
    shouldBreak labels (.and b c) s = (shouldBreak labels b s && shouldBreak labels c s) ∧
    shouldBreak labels (.or b c) s = (shouldBreak labels b s || shouldBreak labels c s) ∧
    shouldBreak labels (.not b) s = !shouldBreak labels b s
end

