-- ==== Sys2Proof/Laws/State.lean ====
section
/-! SUPPORT. One lemma per field per state update: writeWord, fetched, addressed, interruptCycle. -/

namespace Sys2Proof.Machine

@[simp] theorem writeWord_pc (a : Addr) (v : Word) (s : State) : (s.writeWord a v).pc = s.pc := rfl
@[simp] theorem writeWord_ar (a : Addr) (v : Word) (s : State) : (s.writeWord a v).ar = s.ar := rfl
@[simp] theorem writeWord_ir (a : Addr) (v : Word) (s : State) : (s.writeWord a v).ir = s.ir := rfl
@[simp] theorem writeWord_dr (a : Addr) (v : Word) (s : State) : (s.writeWord a v).dr = s.dr := rfl
@[simp] theorem writeWord_ac (a : Addr) (v : Word) (s : State) : (s.writeWord a v).ac = s.ac := rfl
@[simp] theorem writeWord_tr (a : Addr) (v : Word) (s : State) : (s.writeWord a v).tr = s.tr := rfl
@[simp] theorem writeWord_inpr (a : Addr) (v : Word) (s : State) : (s.writeWord a v).inpr = s.inpr := rfl
@[simp] theorem writeWord_outr (a : Addr) (v : Word) (s : State) : (s.writeWord a v).outr = s.outr := rfl
@[simp] theorem writeWord_i (a : Addr) (v : Word) (s : State) : (s.writeWord a v).i = s.i := rfl
@[simp] theorem writeWord_r (a : Addr) (v : Word) (s : State) : (s.writeWord a v).r = s.r := rfl
@[simp] theorem writeWord_ien (a : Addr) (v : Word) (s : State) : (s.writeWord a v).ien = s.ien := rfl
@[simp] theorem writeWord_e (a : Addr) (v : Word) (s : State) : (s.writeWord a v).e = s.e := rfl
@[simp] theorem writeWord_fgi (a : Addr) (v : Word) (s : State) : (s.writeWord a v).fgi = s.fgi := rfl
@[simp] theorem writeWord_fgo (a : Addr) (v : Word) (s : State) : (s.writeWord a v).fgo = s.fgo := rfl
@[simp] theorem writeWord_s (a : Addr) (v : Word) (s : State) : (s.writeWord a v).s = s.s := rfl
@[simp] theorem writeWord_d (a : Addr) (v : Word) (s : State) : (s.writeWord a v).d = s.d := rfl
@[simp] theorem writeWord_sc (a : Addr) (v : Word) (s : State) : (s.writeWord a v).sc = s.sc := rfl
@[simp] theorem writeWord_q (a : Addr) (v : Word) (s : State) : (s.writeWord a v).q = s.q := rfl
@[simp] theorem writeWord_mem (a : Addr) (v : Word) (s : State) : (s.writeWord a v).mem = s.mem.put a.toNat ⟨v, [], []⟩ := rfl
@[simp] theorem writeWord_startable (a : Addr) (v : Word) (s : State) : (s.writeWord a v).startable = s.startable := rfl
@[simp] theorem writeWord_host (a : Addr) (v : Word) (s : State) : (s.writeWord a v).host = s.host := rfl

@[simp] theorem fetched_pc (w : Word) (s : State) : (s.fetched w).pc = s.pc + 1 := rfl
@[simp] theorem fetched_ar (w : Word) (s : State) : (s.fetched w).ar = addressOf w := rfl
@[simp] theorem fetched_ir (w : Word) (s : State) : (s.fetched w).ir = w := rfl
@[simp] theorem fetched_dr (w : Word) (s : State) : (s.fetched w).dr = s.dr := rfl
@[simp] theorem fetched_ac (w : Word) (s : State) : (s.fetched w).ac = s.ac := rfl
@[simp] theorem fetched_tr (w : Word) (s : State) : (s.fetched w).tr = s.tr := rfl
@[simp] theorem fetched_inpr (w : Word) (s : State) : (s.fetched w).inpr = s.inpr := rfl
@[simp] theorem fetched_outr (w : Word) (s : State) : (s.fetched w).outr = s.outr := rfl
@[simp] theorem fetched_i (w : Word) (s : State) : (s.fetched w).i = indirectBitOf w := rfl
@[simp] theorem fetched_r (w : Word) (s : State) : (s.fetched w).r = s.r := rfl
@[simp] theorem fetched_ien (w : Word) (s : State) : (s.fetched w).ien = s.ien := rfl
@[simp] theorem fetched_e (w : Word) (s : State) : (s.fetched w).e = s.e := rfl
@[simp] theorem fetched_fgi (w : Word) (s : State) : (s.fetched w).fgi = s.fgi := rfl
@[simp] theorem fetched_fgo (w : Word) (s : State) : (s.fetched w).fgo = s.fgo := rfl
@[simp] theorem fetched_s (w : Word) (s : State) : (s.fetched w).s = s.s := rfl
@[simp] theorem fetched_d (w : Word) (s : State) : (s.fetched w).d = onehot8 (opClassOf w) := rfl
@[simp] theorem fetched_sc (w : Word) (s : State) : (s.fetched w).sc = 3 := rfl
@[simp] theorem fetched_q (w : Word) (s : State) : (s.fetched w).q = s.q := rfl
@[simp] theorem fetched_mem (w : Word) (s : State) : (s.fetched w).mem = s.mem := rfl
@[simp] theorem fetched_startable (w : Word) (s : State) : (s.fetched w).startable = s.startable := rfl
@[simp] theorem fetched_host (w : Word) (s : State) : (s.fetched w).host = s.host := rfl

@[simp] theorem addressed_pc (w : Word) (s : State) : (s.addressed w).pc = s.pc + 1 := rfl
@[simp] theorem addressed_ar (w : Word) (s : State) : (s.addressed w).ar = effectiveAddress s (indirectBitOf w) (addressOf w) := rfl
@[simp] theorem addressed_ir (w : Word) (s : State) : (s.addressed w).ir = w := rfl
@[simp] theorem addressed_dr (w : Word) (s : State) : (s.addressed w).dr = s.dr := rfl
@[simp] theorem addressed_ac (w : Word) (s : State) : (s.addressed w).ac = s.ac := rfl
@[simp] theorem addressed_tr (w : Word) (s : State) : (s.addressed w).tr = s.tr := rfl
@[simp] theorem addressed_inpr (w : Word) (s : State) : (s.addressed w).inpr = s.inpr := rfl
@[simp] theorem addressed_outr (w : Word) (s : State) : (s.addressed w).outr = s.outr := rfl
@[simp] theorem addressed_i (w : Word) (s : State) : (s.addressed w).i = indirectBitOf w := rfl
@[simp] theorem addressed_r (w : Word) (s : State) : (s.addressed w).r = (s.r || s.requests) := rfl
@[simp] theorem addressed_ien (w : Word) (s : State) : (s.addressed w).ien = s.ien := rfl
@[simp] theorem addressed_e (w : Word) (s : State) : (s.addressed w).e = s.e := rfl
@[simp] theorem addressed_fgi (w : Word) (s : State) : (s.addressed w).fgi = s.fgi := rfl
@[simp] theorem addressed_fgo (w : Word) (s : State) : (s.addressed w).fgo = s.fgo := rfl
@[simp] theorem addressed_s (w : Word) (s : State) : (s.addressed w).s = s.s := rfl
@[simp] theorem addressed_d (w : Word) (s : State) : (s.addressed w).d = onehot8 (opClassOf w) := rfl
@[simp] theorem addressed_sc (w : Word) (s : State) : (s.addressed w).sc = 4 := rfl
@[simp] theorem addressed_q (w : Word) (s : State) : (s.addressed w).q = s.q := rfl
@[simp] theorem addressed_mem (w : Word) (s : State) : (s.addressed w).mem = s.mem := rfl
@[simp] theorem addressed_startable (w : Word) (s : State) : (s.addressed w).startable = s.startable := rfl
@[simp] theorem addressed_host (w : Word) (s : State) : (s.addressed w).host = s.host := rfl

@[simp] theorem interruptCycle_pc  (s : State) : (interruptCycle s).pc = 1 := rfl
@[simp] theorem interruptCycle_ar  (s : State) : (interruptCycle s).ar = 0 := rfl
@[simp] theorem interruptCycle_ir  (s : State) : (interruptCycle s).ir = s.ir := rfl
@[simp] theorem interruptCycle_dr  (s : State) : (interruptCycle s).dr = s.dr := rfl
@[simp] theorem interruptCycle_ac  (s : State) : (interruptCycle s).ac = s.ac := rfl
@[simp] theorem interruptCycle_tr  (s : State) : (interruptCycle s).tr = zext16 s.pc := rfl
@[simp] theorem interruptCycle_inpr  (s : State) : (interruptCycle s).inpr = s.inpr := rfl
@[simp] theorem interruptCycle_outr  (s : State) : (interruptCycle s).outr = s.outr := rfl
@[simp] theorem interruptCycle_i  (s : State) : (interruptCycle s).i = s.i := rfl
@[simp] theorem interruptCycle_r  (s : State) : (interruptCycle s).r = false := rfl
@[simp] theorem interruptCycle_ien  (s : State) : (interruptCycle s).ien = false := rfl
@[simp] theorem interruptCycle_e  (s : State) : (interruptCycle s).e = s.e := rfl
@[simp] theorem interruptCycle_fgi  (s : State) : (interruptCycle s).fgi = s.fgi := rfl
@[simp] theorem interruptCycle_fgo  (s : State) : (interruptCycle s).fgo = s.fgo := rfl
@[simp] theorem interruptCycle_s  (s : State) : (interruptCycle s).s = s.s := rfl
@[simp] theorem interruptCycle_d  (s : State) : (interruptCycle s).d = s.d := rfl
@[simp] theorem interruptCycle_sc  (s : State) : (interruptCycle s).sc = 0 := rfl
@[simp] theorem interruptCycle_q  (s : State) : (interruptCycle s).q = s.q := rfl
@[simp] theorem interruptCycle_mem  (s : State) : (interruptCycle s).mem = s.mem.put 0 ⟨zext16 s.pc, [], []⟩ := rfl
@[simp] theorem interruptCycle_startable  (s : State) : (interruptCycle s).startable = s.startable := rfl
@[simp] theorem interruptCycle_host  (s : State) : (interruptCycle s).host = s.host := rfl

@[simp] theorem fetched_requests (w : Word) (s : State) : (s.fetched w).requests = s.requests := rfl

@[simp] theorem addressed_requests (w : Word) (s : State) : (s.addressed w).requests = s.requests := rfl

@[simp] theorem writeWord_requests (a : Addr) (v : Word) (s : State) : (s.writeWord a v).requests = s.requests := rfl

@[simp] theorem fetched_readWord (w : Word) (s : State) (a : Addr) : (s.fetched w).readWord a = s.readWord a := rfl

@[simp] theorem addressed_readWord (w : Word) (s : State) (a : Addr) : (s.addressed w).readWord a = s.readWord a := rfl

/-- A state is its fields. -/
theorem State.ext_fields {s t : State} (hpc : s.pc = t.pc) (har : s.ar = t.ar) (hir : s.ir = t.ir) (hdr : s.dr = t.dr) (hac : s.ac = t.ac) (htr : s.tr = t.tr) (hinpr : s.inpr = t.inpr) (houtr : s.outr = t.outr) (hi : s.i = t.i) (hr : s.r = t.r) (hien : s.ien = t.ien) (he : s.e = t.e) (hfgi : s.fgi = t.fgi) (hfgo : s.fgo = t.fgo) (hs : s.s = t.s) (hd : s.d = t.d) (hsc : s.sc = t.sc) (hq : s.q = t.q) (hmem : s.mem = t.mem) (hstartable : s.startable = t.startable) (hhost : s.host = t.host) : s = t := by
  cases s
  cases t
  simp_all

end Sys2Proof.Machine
end

