-- ==== Sys2Proof/Laws/Memory.lean ====
section
/-! SUPPORT. Read after write on memory, and the canonical form, which every memory operation keeps. -/

namespace Sys2Proof.Machine

@[simp] theorem Memory.find_nil (a : Nat) : Memory.find [] a = Cell.blank := rfl

theorem Memory.find_insertAt_same (m : Memory) (a : Nat) (c : Cell) : (m.insertAt a c).find a = c := by
  induction m with
  | nil => simp [Memory.insertAt, Memory.find]
  | cons head m ih =>
    obtain ⟨k, d⟩ := head
    unfold Memory.insertAt
    split_ifs with h1 h2
    · simp [Memory.find]
    · simp [Memory.find]
    · simp [Memory.find, ih, Ne.symm h2]

theorem Memory.find_insertAt_other (m : Memory) {a b : Nat} (c : Cell) (h : b ≠ a) :
    (m.insertAt a c).find b = m.find b := by
  induction m with
  | nil => simp [Memory.insertAt, Memory.find, Ne.symm h]
  | cons head m ih =>
    obtain ⟨k, d⟩ := head
    unfold Memory.insertAt
    split_ifs with h1 h2
    · simp [Memory.find, Ne.symm h]
    · subst h2
      simp [Memory.find, Ne.symm h]
    · simp [Memory.find, ih]

theorem Memory.find_filter_same (m : Memory) (a : Nat) :
    Memory.find (m.filter (fun entry => entry.1 != a)) a = Cell.blank := by
  induction m with
  | nil => rfl
  | cons head m ih =>
    obtain ⟨k, d⟩ := head
    by_cases h : k = a
    · simp [h, ih]
    · simp [h, Memory.find, ih]

theorem Memory.find_filter_other (m : Memory) {a b : Nat} (h : b ≠ a) :
    Memory.find (m.filter (fun entry => entry.1 != a)) b = m.find b := by
  induction m with
  | nil => rfl
  | cons head m ih =>
    obtain ⟨k, d⟩ := head
    by_cases hk : k = a
    · subst hk
      simp [Memory.find, ih, Ne.symm h]
    · simp [hk, Memory.find, ih]

/-- A cell reads back as it was put (R63). -/
@[simp] theorem Memory.find_put_same (m : Memory) (a : Nat) (c : Cell) : (m.put a c).find a = c := by
  unfold Memory.put
  split_ifs with h
  · rw [h, Memory.find_filter_same]
  · exact Memory.find_insertAt_same m a c

/-- A write leaves every other cell alone (R63). -/
theorem Memory.find_put_other (m : Memory) {a b : Nat} (c : Cell) (h : b ≠ a) : (m.put a c).find b = m.find b := by
  unfold Memory.put
  split_ifs
  · exact Memory.find_filter_other m h
  · exact Memory.find_insertAt_other m c h

theorem Memory.mem_insertAt {m : Memory} {a : Nat} {c : Cell} {e : Nat × Cell} (h : e ∈ m.insertAt a c) :
    e = (a, c) ∨ e ∈ m := by
  induction m with
  | nil => simpa [Memory.insertAt] using h
  | cons head m ih =>
    obtain ⟨k, d⟩ := head
    unfold Memory.insertAt at h
    split_ifs at h with h1 h2
    · simpa using h
    · rcases List.mem_cons.1 h with h | h
      · exact .inl h
      · exact .inr (List.mem_cons_of_mem _ h)
    · rcases List.mem_cons.1 h with h | h
      · exact .inr (h ▸ List.mem_cons_self)
      · exact (ih h).imp id (List.mem_cons_of_mem _)

theorem Memory.wf_cons (k : Nat) (c : Cell) (m : Memory) :
    Memory.wf ((k, c) :: m) = true ↔ k < Config.memWords ∧ c ≠ Cell.blank ∧ (∀ e ∈ m, k < e.1) ∧ m.wf = true := by
  simp [Memory.wf, and_assoc]

theorem Memory.wf_insertAt {m : Memory} {a : Nat} {c : Cell} (hm : m.wf = true) (ha : a < Config.memWords)
    (hc : c ≠ Cell.blank) : (m.insertAt a c).wf = true := by
  induction m with
  | nil => simp [Memory.insertAt, Memory.wf, ha, hc]
  | cons head m ih =>
    obtain ⟨k, d⟩ := head
    obtain ⟨hk, hd, hlt, hm'⟩ := (Memory.wf_cons k d m).1 hm
    unfold Memory.insertAt
    split_ifs with h1 h2
    · refine (Memory.wf_cons _ _ _).2 ⟨ha, hc, fun e he => ?_, hm⟩
      rcases List.mem_cons.1 he with he | he
      · exact he ▸ h1
      · exact h1.trans (hlt e he)
    · subst h2
      exact (Memory.wf_cons _ _ _).2 ⟨ha, hc, hlt, hm'⟩
    · refine (Memory.wf_cons _ _ _).2 ⟨hk, hd, fun e he => ?_, ih hm'⟩
      rcases Memory.mem_insertAt he with he | he
      · subst he
        show k < a
        omega
      · exact hlt e he

theorem Memory.wf_filter {m : Memory} (p : Nat × Cell → Bool) (hm : m.wf = true) :
    Memory.wf (m.filter p) = true := by
  induction m with
  | nil => rfl
  | cons head m ih =>
    obtain ⟨k, d⟩ := head
    obtain ⟨hk, hd, hlt, hm'⟩ := (Memory.wf_cons k d m).1 hm
    by_cases h : p (k, d)
    · rw [List.filter_cons_of_pos h]
      exact (Memory.wf_cons _ _ _).2 ⟨hk, hd, fun e he => hlt e (List.mem_of_mem_filter he), ih hm'⟩
    · rw [List.filter_cons_of_neg h]
      exact ih hm'

/-- A write keeps the canonical form. -/
theorem Memory.wf_put {m : Memory} {a : Nat} (c : Cell) (hm : m.wf = true) (ha : a < Config.memWords) :
    (m.put a c).wf = true := by
  unfold Memory.put
  split_ifs with h
  · exact Memory.wf_filter _ hm
  · exact Memory.wf_insertAt hm ha h

/-- The memory after reset is in canonical form. -/
theorem reset_mem_wf : State.reset.mem.wf = true := rfl

/-- Every address a register holds is below 4096. -/
theorem addr_lt_memWords (a : Addr) : a.toNat < Config.memWords := a.isLt

/-- A store by the control unit keeps the canonical form. -/
theorem writeWord_wf {s : State} (a : Addr) (v : Word) (hs : s.mem.wf = true) : (s.writeWord a v).mem.wf = true :=
  Memory.wf_put _ hs (addr_lt_memWords a)

@[simp] theorem readWord_writeWord_same (s : State) (a : Addr) (v : Word) : (s.writeWord a v).readWord a = v := by
  simp [State.readWord]

theorem readWord_writeWord_other (s : State) {a b : Addr} (v : Word) (h : b ≠ a) :
    (s.writeWord a v).readWord b = s.readWord b := by
  have h' : b.toNat ≠ a.toNat := fun e => h (BitVec.eq_of_toNat_eq e)
  simp [State.readWord, Memory.find_put_other _ _ h']

/-- Two memories in canonical form that read the same everywhere are the same list. -/
theorem Memory.ext_find {m n : Memory} (hm : m.wf = true) (hn : n.wf = true) (h : ∀ a, m.find a = n.find a) :
    m = n := by
  have absent : ∀ (l : Memory) (a : Nat), (∀ e ∈ l, a < e.1) → l.find a = Cell.blank := by
    intro l a hl
    induction l with
    | nil => rfl
    | cons head l ih =>
      obtain ⟨k, c⟩ := head
      have hk : a < k := hl (k, c) List.mem_cons_self
      simp only [Memory.find, if_neg hk.ne']
      exact ih fun e he => hl e (List.mem_cons_of_mem _ he)
  induction m generalizing n with
  | nil =>
    cases n with
    | nil => rfl
    | cons head n =>
      obtain ⟨k, c⟩ := head
      have hk := h k
      simp only [Memory.find, if_true] at hk
      exact absurd hk.symm ((Memory.wf_cons k c n).1 hn).2.1
  | cons head m ih =>
    obtain ⟨k, c⟩ := head
    obtain ⟨-, hc, hlt, hm'⟩ := (Memory.wf_cons k c m).1 hm
    cases n with
    | nil =>
      have hk := h k
      simp only [Memory.find, if_true] at hk
      exact absurd hk hc
    | cons head' n =>
      obtain ⟨k', c'⟩ := head'
      obtain ⟨-, hc', hlt', hn'⟩ := (Memory.wf_cons k' c' n).1 hn
      have hkk : k = k' := by
        rcases lt_trichotomy k k' with hlt1 | heq | hlt1
        · have hk := h k
          rw [absent ((k', c') :: n) k (by
            intro e he
            rcases List.mem_cons.1 he with he | he
            · exact he ▸ hlt1
            · exact hlt1.trans (hlt' e he))] at hk
          simp only [Memory.find, if_true] at hk
          exact absurd hk hc
        · exact heq
        · have hk := h k'
          rw [absent ((k, c) :: m) k' (by
            intro e he
            rcases List.mem_cons.1 he with he | he
            · exact he ▸ hlt1
            · exact hlt1.trans (hlt e he))] at hk
          simp only [Memory.find, if_true] at hk
          exact absurd hk.symm hc'
      subst hkk
      have hcc : c = c' := by simpa [Memory.find] using h k
      subst hcc
      refine congrArg _ (ih hm' hn' fun a => ?_)
      by_cases ha : k = a
      · subst ha
        rw [absent m k hlt, absent n k hlt']
      · simpa [Memory.find, ha] using h a

/-- Writes to two different cells commute. -/
theorem Memory.put_comm {m : Memory} {a b : Nat} (c d : Cell) (hm : m.wf = true) (ha : a < Config.memWords)
    (hb : b < Config.memWords) (h : a ≠ b) : (m.put a c).put b d = (m.put b d).put a c := by
  refine Memory.ext_find (Memory.wf_put d (Memory.wf_put c hm ha) hb) (Memory.wf_put c (Memory.wf_put d hm hb) ha)
    fun k => ?_
  by_cases hka : k = a
  · subst hka
    rw [Memory.find_put_other _ _ h, Memory.find_put_same, Memory.find_put_same]
  · by_cases hkb : k = b
    · subst hkb
      rw [Memory.find_put_same, Memory.find_put_other _ _ hka, Memory.find_put_same]
    · rw [Memory.find_put_other _ _ hkb, Memory.find_put_other _ _ hka, Memory.find_put_other _ _ hka,
        Memory.find_put_other _ _ hkb]

end Sys2Proof.Machine
end

