-- ==== Sys2Proof/Laws/PerInstr.lean ====
section
/-! SUPPORT. A statement about every instruction, proved one constructor at a time: the three fields of its word (R81-R86)
are the ones its syntax gives. -/

namespace Sys2Proof.Laws.EncodedFields

/-- Bits 14:12, bit 15 and bits 11:0 of an instruction's word. -/
def Statement (i : Instr) : Prop :=
  opClassOf (encode i) = i.opClass ∧ indirectBitOf (encode i) = i.bit15 ∧ addressOf (encode i) = i.low12

theorem and (ind : Bool) (addr : Addr) : Statement (.and ind addr) := by
  refine ⟨?_, ?_, ?_⟩
  · simp only [opClassOf, encode, encodeMemory, combine, Instr.opClass]
    ext k hk
    interval_cases k <;> cases ind <;> simp
  · cases ind <;> simp [indirectBitOf, encode, encodeMemory, combine, Instr.bit15]
  · simp only [addressOf, encode, encodeMemory, combine, Instr.low12]
    ext k hk
    interval_cases k <;> cases ind <;> simp

theorem add (ind : Bool) (addr : Addr) : Statement (.add ind addr) := by
  refine ⟨?_, ?_, ?_⟩
  · simp only [opClassOf, encode, encodeMemory, combine, Instr.opClass]
    ext k hk
    interval_cases k <;> cases ind <;> simp
  · cases ind <;> simp [indirectBitOf, encode, encodeMemory, combine, Instr.bit15]
  · simp only [addressOf, encode, encodeMemory, combine, Instr.low12]
    ext k hk
    interval_cases k <;> cases ind <;> simp

theorem lda (ind : Bool) (addr : Addr) : Statement (.lda ind addr) := by
  refine ⟨?_, ?_, ?_⟩
  · simp only [opClassOf, encode, encodeMemory, combine, Instr.opClass]
    ext k hk
    interval_cases k <;> cases ind <;> simp
  · cases ind <;> simp [indirectBitOf, encode, encodeMemory, combine, Instr.bit15]
  · simp only [addressOf, encode, encodeMemory, combine, Instr.low12]
    ext k hk
    interval_cases k <;> cases ind <;> simp

theorem sta (ind : Bool) (addr : Addr) : Statement (.sta ind addr) := by
  refine ⟨?_, ?_, ?_⟩
  · simp only [opClassOf, encode, encodeMemory, combine, Instr.opClass]
    ext k hk
    interval_cases k <;> cases ind <;> simp
  · cases ind <;> simp [indirectBitOf, encode, encodeMemory, combine, Instr.bit15]
  · simp only [addressOf, encode, encodeMemory, combine, Instr.low12]
    ext k hk
    interval_cases k <;> cases ind <;> simp

theorem bun (ind : Bool) (addr : Addr) : Statement (.bun ind addr) := by
  refine ⟨?_, ?_, ?_⟩
  · simp only [opClassOf, encode, encodeMemory, combine, Instr.opClass]
    ext k hk
    interval_cases k <;> cases ind <;> simp
  · cases ind <;> simp [indirectBitOf, encode, encodeMemory, combine, Instr.bit15]
  · simp only [addressOf, encode, encodeMemory, combine, Instr.low12]
    ext k hk
    interval_cases k <;> cases ind <;> simp

theorem bsa (ind : Bool) (addr : Addr) : Statement (.bsa ind addr) := by
  refine ⟨?_, ?_, ?_⟩
  · simp only [opClassOf, encode, encodeMemory, combine, Instr.opClass]
    ext k hk
    interval_cases k <;> cases ind <;> simp
  · cases ind <;> simp [indirectBitOf, encode, encodeMemory, combine, Instr.bit15]
  · simp only [addressOf, encode, encodeMemory, combine, Instr.low12]
    ext k hk
    interval_cases k <;> cases ind <;> simp

theorem isz (ind : Bool) (addr : Addr) : Statement (.isz ind addr) := by
  refine ⟨?_, ?_, ?_⟩
  · simp only [opClassOf, encode, encodeMemory, combine, Instr.opClass]
    ext k hk
    interval_cases k <;> cases ind <;> simp
  · cases ind <;> simp [indirectBitOf, encode, encodeMemory, combine, Instr.bit15]
  · simp only [addressOf, encode, encodeMemory, combine, Instr.low12]
    ext k hk
    interval_cases k <;> cases ind <;> simp

theorem cla (m : BitVec 11) : Statement (.cla m) := by
  refine ⟨?_, ?_, ?_⟩
  · simp only [opClassOf, encode, combine, Instr.opClass]
    ext k hk
    interval_cases k <;> simp
  · simp [indirectBitOf, encode, combine, Instr.bit15]
  · simp only [addressOf, encode, combine, Instr.low12]
    ext k hk
    interval_cases k <;> simp

theorem cle (m : BitVec 10) : Statement (.cle m) := by
  refine ⟨?_, ?_, ?_⟩
  · simp only [opClassOf, encode, combine, Instr.opClass]
    ext k hk
    interval_cases k <;> simp
  · simp [indirectBitOf, encode, combine, Instr.bit15]
  · simp only [addressOf, encode, combine, Instr.low12]
    ext k hk
    interval_cases k <;> simp

theorem cma (m : BitVec 9) : Statement (.cma m) := by
  refine ⟨?_, ?_, ?_⟩
  · simp only [opClassOf, encode, combine, Instr.opClass]
    ext k hk
    interval_cases k <;> simp
  · simp [indirectBitOf, encode, combine, Instr.bit15]
  · simp only [addressOf, encode, combine, Instr.low12]
    ext k hk
    interval_cases k <;> simp

theorem cme (m : BitVec 8) : Statement (.cme m) := by
  refine ⟨?_, ?_, ?_⟩
  · simp only [opClassOf, encode, combine, Instr.opClass]
    ext k hk
    interval_cases k <;> simp
  · simp [indirectBitOf, encode, combine, Instr.bit15]
  · simp only [addressOf, encode, combine, Instr.low12]
    ext k hk
    interval_cases k <;> simp

theorem cir (m : BitVec 7) : Statement (.cir m) := by
  refine ⟨?_, ?_, ?_⟩
  · simp only [opClassOf, encode, combine, Instr.opClass]
    ext k hk
    interval_cases k <;> simp
  · simp [indirectBitOf, encode, combine, Instr.bit15]
  · simp only [addressOf, encode, combine, Instr.low12]
    ext k hk
    interval_cases k <;> simp

theorem cil (m : BitVec 6) : Statement (.cil m) := by
  refine ⟨?_, ?_, ?_⟩
  · simp only [opClassOf, encode, combine, Instr.opClass]
    ext k hk
    interval_cases k <;> simp
  · simp [indirectBitOf, encode, combine, Instr.bit15]
  · simp only [addressOf, encode, combine, Instr.low12]
    ext k hk
    interval_cases k <;> simp

theorem inc (m : BitVec 5) : Statement (.inc m) := by
  refine ⟨?_, ?_, ?_⟩
  · simp only [opClassOf, encode, combine, Instr.opClass]
    ext k hk
    interval_cases k <;> simp
  · simp [indirectBitOf, encode, combine, Instr.bit15]
  · simp only [addressOf, encode, combine, Instr.low12]
    ext k hk
    interval_cases k <;> simp

theorem spa (m : BitVec 4) : Statement (.spa m) := by
  refine ⟨?_, ?_, ?_⟩
  · simp only [opClassOf, encode, combine, Instr.opClass]
    ext k hk
    interval_cases k <;> simp
  · simp [indirectBitOf, encode, combine, Instr.bit15]
  · simp only [addressOf, encode, combine, Instr.low12]
    ext k hk
    interval_cases k <;> simp

theorem sna (m : BitVec 3) : Statement (.sna m) := by
  refine ⟨?_, ?_, ?_⟩
  · simp only [opClassOf, encode, combine, Instr.opClass]
    ext k hk
    interval_cases k <;> simp
  · simp [indirectBitOf, encode, combine, Instr.bit15]
  · simp only [addressOf, encode, combine, Instr.low12]
    ext k hk
    interval_cases k <;> simp

theorem sza (m : BitVec 2) : Statement (.sza m) := by
  refine ⟨?_, ?_, ?_⟩
  · simp only [opClassOf, encode, combine, Instr.opClass]
    ext k hk
    interval_cases k <;> simp
  · simp [indirectBitOf, encode, combine, Instr.bit15]
  · simp only [addressOf, encode, combine, Instr.low12]
    ext k hk
    interval_cases k <;> simp

theorem sze (m : BitVec 1) : Statement (.sze m) := by
  refine ⟨?_, ?_, ?_⟩
  · simp only [opClassOf, encode, combine, Instr.opClass]
    ext k hk
    interval_cases k <;> simp
  · simp [indirectBitOf, encode, combine, Instr.bit15]
  · simp only [addressOf, encode, combine, Instr.low12]
    ext k hk
    interval_cases k <;> simp

theorem hlt : Statement .hlt := by
  unfold Statement
  decide

theorem nopRegister : Statement .nopRegister := by
  unfold Statement
  decide

theorem inp (m : BitVec 11) : Statement (.inp m) := by
  refine ⟨?_, ?_, ?_⟩
  · simp only [opClassOf, encode, combine, Instr.opClass]
    ext k hk
    interval_cases k <;> simp
  · simp [indirectBitOf, encode, combine, Instr.bit15]
  · simp only [addressOf, encode, combine, Instr.low12]
    ext k hk
    interval_cases k <;> simp

theorem out (m : BitVec 10) : Statement (.out m) := by
  refine ⟨?_, ?_, ?_⟩
  · simp only [opClassOf, encode, combine, Instr.opClass]
    ext k hk
    interval_cases k <;> simp
  · simp [indirectBitOf, encode, combine, Instr.bit15]
  · simp only [addressOf, encode, combine, Instr.low12]
    ext k hk
    interval_cases k <;> simp

theorem ski (m : BitVec 9) : Statement (.ski m) := by
  refine ⟨?_, ?_, ?_⟩
  · simp only [opClassOf, encode, combine, Instr.opClass]
    ext k hk
    interval_cases k <;> simp
  · simp [indirectBitOf, encode, combine, Instr.bit15]
  · simp only [addressOf, encode, combine, Instr.low12]
    ext k hk
    interval_cases k <;> simp

theorem sko (m : BitVec 8) : Statement (.sko m) := by
  refine ⟨?_, ?_, ?_⟩
  · simp only [opClassOf, encode, combine, Instr.opClass]
    ext k hk
    interval_cases k <;> simp
  · simp [indirectBitOf, encode, combine, Instr.bit15]
  · simp only [addressOf, encode, combine, Instr.low12]
    ext k hk
    interval_cases k <;> simp

theorem ion (m : BitVec 7) : Statement (.ion m) := by
  refine ⟨?_, ?_, ?_⟩
  · simp only [opClassOf, encode, combine, Instr.opClass]
    ext k hk
    interval_cases k <;> simp
  · simp [indirectBitOf, encode, combine, Instr.bit15]
  · simp only [addressOf, encode, combine, Instr.low12]
    ext k hk
    interval_cases k <;> simp

theorem iof (m : BitVec 6) : Statement (.iof m) := by
  refine ⟨?_, ?_, ?_⟩
  · simp only [opClassOf, encode, combine, Instr.opClass]
    ext k hk
    interval_cases k <;> simp
  · simp [indirectBitOf, encode, combine, Instr.bit15]
  · simp only [addressOf, encode, combine, Instr.low12]
    ext k hk
    interval_cases k <;> simp

theorem nopIo (m : BitVec 6) : Statement (.nopIo m) := by
  refine ⟨?_, ?_, ?_⟩
  · simp only [opClassOf, encode, combine, Instr.opClass]
    ext k hk
    interval_cases k <;> simp
  · simp [indirectBitOf, encode, combine, Instr.bit15]
  · simp only [addressOf, encode, combine, Instr.low12]
    ext k hk
    interval_cases k <;> simp

/-- Every instruction's word has the fields its syntax gives. -/
theorem all (i : Instr) : Statement i := by
  cases i
  case and ind addr => exact and ind addr
  case add ind addr => exact add ind addr
  case lda ind addr => exact lda ind addr
  case sta ind addr => exact sta ind addr
  case bun ind addr => exact bun ind addr
  case bsa ind addr => exact bsa ind addr
  case isz ind addr => exact isz ind addr
  case cla m => exact cla m
  case cle m => exact cle m
  case cma m => exact cma m
  case cme m => exact cme m
  case cir m => exact cir m
  case cil m => exact cil m
  case inc m => exact inc m
  case spa m => exact spa m
  case sna m => exact sna m
  case sza m => exact sza m
  case sze m => exact sze m
  case hlt => exact hlt
  case nopRegister => exact nopRegister
  case inp m => exact inp m
  case out m => exact out m
  case ski m => exact ski m
  case sko m => exact sko m
  case ion m => exact ion m
  case iof m => exact iof m
  case nopIo m => exact nopIo m

end Sys2Proof.Laws.EncodedFields

namespace Sys2Proof

@[simp] theorem opClassOf_encode (i : Instr) : opClassOf (encode i) = i.opClass := (Laws.EncodedFields.all i).1

@[simp] theorem indirectBitOf_encode (i : Instr) : indirectBitOf (encode i) = i.bit15 := (Laws.EncodedFields.all i).2.1

@[simp] theorem addressOf_encode (i : Instr) : addressOf (encode i) = i.low12 := (Laws.EncodedFields.all i).2.2

end Sys2Proof
end

