-- ==== Sys2Proof/Laws/Batch.lean ====
section
/-! SUPPORT. What a micro-operation, a batch and the tick T3 can do, said once: each field is kept unless it is a target
(R127), memory stays canonical, and the answers of `executeT3`. -/

namespace Sys2Proof.Machine

/-! ### One micro-operation -/

theorem apply_pc {op : MicroOp} (h : op.target ≠ .pc) (s : State) : (op.apply s).pc = s.pc := by
  cases op <;> simp_all [MicroOp.apply, MicroOp.target]

theorem apply_ar {op : MicroOp} (h : op.target ≠ .ar) (s : State) : (op.apply s).ar = s.ar := by
  cases op <;> simp_all [MicroOp.apply, MicroOp.target]

theorem apply_ir {op : MicroOp} (h : op.target ≠ .ir) (s : State) : (op.apply s).ir = s.ir := by
  cases op <;> simp_all [MicroOp.apply, MicroOp.target]

theorem apply_dr {op : MicroOp} (h : op.target ≠ .dr) (s : State) : (op.apply s).dr = s.dr := by
  cases op <;> simp_all [MicroOp.apply, MicroOp.target]

theorem apply_ac {op : MicroOp} (h : op.target ≠ .ac) (s : State) : (op.apply s).ac = s.ac := by
  cases op <;> simp_all [MicroOp.apply, MicroOp.target]

theorem apply_tr {op : MicroOp} (h : op.target ≠ .tr) (s : State) : (op.apply s).tr = s.tr := by
  cases op <;> simp_all [MicroOp.apply, MicroOp.target]

theorem apply_outr {op : MicroOp} (h : op.target ≠ .outr) (s : State) : (op.apply s).outr = s.outr := by
  cases op <;> simp_all [MicroOp.apply, MicroOp.target]

theorem apply_i {op : MicroOp} (h : op.target ≠ .i) (s : State) : (op.apply s).i = s.i := by
  cases op <;> simp_all [MicroOp.apply, MicroOp.target]

theorem apply_r {op : MicroOp} (h : op.target ≠ .r) (s : State) : (op.apply s).r = s.r := by
  cases op <;> simp_all [MicroOp.apply, MicroOp.target]

theorem apply_ien {op : MicroOp} (h : op.target ≠ .ien) (s : State) : (op.apply s).ien = s.ien := by
  cases op <;> simp_all [MicroOp.apply, MicroOp.target]

theorem apply_e {op : MicroOp} (h : op.target ≠ .e) (s : State) : (op.apply s).e = s.e := by
  cases op <;> simp_all [MicroOp.apply, MicroOp.target]

theorem apply_fgi {op : MicroOp} (h : op.target ≠ .fgi) (s : State) : (op.apply s).fgi = s.fgi := by
  cases op <;> simp_all [MicroOp.apply, MicroOp.target]

theorem apply_fgo {op : MicroOp} (h : op.target ≠ .fgo) (s : State) : (op.apply s).fgo = s.fgo := by
  cases op <;> simp_all [MicroOp.apply, MicroOp.target]

theorem apply_s {op : MicroOp} (h : op.target ≠ .s) (s : State) : (op.apply s).s = s.s := by
  cases op <;> simp_all [MicroOp.apply, MicroOp.target]

theorem apply_d {op : MicroOp} (h : op.target ≠ .d) (s : State) : (op.apply s).d = s.d := by
  cases op <;> simp_all [MicroOp.apply, MicroOp.target]

theorem apply_sc {op : MicroOp} (h : op.target ≠ .sc) (s : State) : (op.apply s).sc = s.sc := by
  cases op <;> simp_all [MicroOp.apply, MicroOp.target]

@[simp] theorem apply_inpr (op : MicroOp) (s : State) : (op.apply s).inpr = s.inpr := by
  cases op <;> rfl

@[simp] theorem apply_q (op : MicroOp) (s : State) : (op.apply s).q = s.q := by
  cases op <;> rfl

@[simp] theorem apply_startable (op : MicroOp) (s : State) : (op.apply s).startable = s.startable := by
  cases op <;> rfl

@[simp] theorem apply_host (op : MicroOp) (s : State) : (op.apply s).host = s.host := by
  cases op <;> rfl

/-- A cell that is not the target keeps its value and its texts (R127). -/
theorem apply_find {op : MicroOp} {a : Addr} (h : op.target ≠ .cell a) (s : State) :
    (op.apply s).mem.find a.toNat = s.mem.find a.toNat := by
  cases op with
  | write b v =>
    have hb : a.toNat ≠ b.toNat := fun e => h (by rw [MicroOp.target, BitVec.eq_of_toNat_eq e])
    exact Memory.find_put_other _ _ hb
  | _ => rfl

/-- A micro-operation keeps memory canonical. -/
theorem apply_wf (op : MicroOp) {s : State} (hs : s.mem.wf = true) : (op.apply s).mem.wf = true := by
  cases op with
  | write a v => exact writeWord_wf a v hs
  | _ => exact hs

/-! ### A batch -/

@[simp] theorem applyAll_nil (s : State) : applyAll [] s = s := rfl

@[simp] theorem applyAll_cons (op : MicroOp) (ops : List MicroOp) (s : State) :
    applyAll (op :: ops) s = applyAll ops (op.apply s) := rfl

theorem applyAll_append (ops more : List MicroOp) (s : State) :
    applyAll (ops ++ more) s = applyAll more (applyAll ops s) := List.foldl_append

theorem applyAll_pc {ops : List MicroOp} (h : ∀ op ∈ ops, op.target ≠ .pc) (s : State) : (applyAll ops s).pc = s.pc := by
  induction ops generalizing s with
  | nil => rfl
  | cons op ops ih =>
    rw [applyAll_cons, ih (fun o ho => h o (List.mem_cons_of_mem _ ho)), apply_pc (h op List.mem_cons_self)]

theorem applyAll_ar {ops : List MicroOp} (h : ∀ op ∈ ops, op.target ≠ .ar) (s : State) : (applyAll ops s).ar = s.ar := by
  induction ops generalizing s with
  | nil => rfl
  | cons op ops ih =>
    rw [applyAll_cons, ih (fun o ho => h o (List.mem_cons_of_mem _ ho)), apply_ar (h op List.mem_cons_self)]

theorem applyAll_ir {ops : List MicroOp} (h : ∀ op ∈ ops, op.target ≠ .ir) (s : State) : (applyAll ops s).ir = s.ir := by
  induction ops generalizing s with
  | nil => rfl
  | cons op ops ih =>
    rw [applyAll_cons, ih (fun o ho => h o (List.mem_cons_of_mem _ ho)), apply_ir (h op List.mem_cons_self)]

theorem applyAll_dr {ops : List MicroOp} (h : ∀ op ∈ ops, op.target ≠ .dr) (s : State) : (applyAll ops s).dr = s.dr := by
  induction ops generalizing s with
  | nil => rfl
  | cons op ops ih =>
    rw [applyAll_cons, ih (fun o ho => h o (List.mem_cons_of_mem _ ho)), apply_dr (h op List.mem_cons_self)]

theorem applyAll_ac {ops : List MicroOp} (h : ∀ op ∈ ops, op.target ≠ .ac) (s : State) : (applyAll ops s).ac = s.ac := by
  induction ops generalizing s with
  | nil => rfl
  | cons op ops ih =>
    rw [applyAll_cons, ih (fun o ho => h o (List.mem_cons_of_mem _ ho)), apply_ac (h op List.mem_cons_self)]

theorem applyAll_tr {ops : List MicroOp} (h : ∀ op ∈ ops, op.target ≠ .tr) (s : State) : (applyAll ops s).tr = s.tr := by
  induction ops generalizing s with
  | nil => rfl
  | cons op ops ih =>
    rw [applyAll_cons, ih (fun o ho => h o (List.mem_cons_of_mem _ ho)), apply_tr (h op List.mem_cons_self)]

theorem applyAll_outr {ops : List MicroOp} (h : ∀ op ∈ ops, op.target ≠ .outr) (s : State) : (applyAll ops s).outr = s.outr := by
  induction ops generalizing s with
  | nil => rfl
  | cons op ops ih =>
    rw [applyAll_cons, ih (fun o ho => h o (List.mem_cons_of_mem _ ho)), apply_outr (h op List.mem_cons_self)]

theorem applyAll_i {ops : List MicroOp} (h : ∀ op ∈ ops, op.target ≠ .i) (s : State) : (applyAll ops s).i = s.i := by
  induction ops generalizing s with
  | nil => rfl
  | cons op ops ih =>
    rw [applyAll_cons, ih (fun o ho => h o (List.mem_cons_of_mem _ ho)), apply_i (h op List.mem_cons_self)]

theorem applyAll_r {ops : List MicroOp} (h : ∀ op ∈ ops, op.target ≠ .r) (s : State) : (applyAll ops s).r = s.r := by
  induction ops generalizing s with
  | nil => rfl
  | cons op ops ih =>
    rw [applyAll_cons, ih (fun o ho => h o (List.mem_cons_of_mem _ ho)), apply_r (h op List.mem_cons_self)]

theorem applyAll_ien {ops : List MicroOp} (h : ∀ op ∈ ops, op.target ≠ .ien) (s : State) : (applyAll ops s).ien = s.ien := by
  induction ops generalizing s with
  | nil => rfl
  | cons op ops ih =>
    rw [applyAll_cons, ih (fun o ho => h o (List.mem_cons_of_mem _ ho)), apply_ien (h op List.mem_cons_self)]

theorem applyAll_e {ops : List MicroOp} (h : ∀ op ∈ ops, op.target ≠ .e) (s : State) : (applyAll ops s).e = s.e := by
  induction ops generalizing s with
  | nil => rfl
  | cons op ops ih =>
    rw [applyAll_cons, ih (fun o ho => h o (List.mem_cons_of_mem _ ho)), apply_e (h op List.mem_cons_self)]

theorem applyAll_fgi {ops : List MicroOp} (h : ∀ op ∈ ops, op.target ≠ .fgi) (s : State) : (applyAll ops s).fgi = s.fgi := by
  induction ops generalizing s with
  | nil => rfl
  | cons op ops ih =>
    rw [applyAll_cons, ih (fun o ho => h o (List.mem_cons_of_mem _ ho)), apply_fgi (h op List.mem_cons_self)]

theorem applyAll_fgo {ops : List MicroOp} (h : ∀ op ∈ ops, op.target ≠ .fgo) (s : State) : (applyAll ops s).fgo = s.fgo := by
  induction ops generalizing s with
  | nil => rfl
  | cons op ops ih =>
    rw [applyAll_cons, ih (fun o ho => h o (List.mem_cons_of_mem _ ho)), apply_fgo (h op List.mem_cons_self)]

theorem applyAll_s {ops : List MicroOp} (h : ∀ op ∈ ops, op.target ≠ .s) (s : State) : (applyAll ops s).s = s.s := by
  induction ops generalizing s with
  | nil => rfl
  | cons op ops ih =>
    rw [applyAll_cons, ih (fun o ho => h o (List.mem_cons_of_mem _ ho)), apply_s (h op List.mem_cons_self)]

theorem applyAll_d {ops : List MicroOp} (h : ∀ op ∈ ops, op.target ≠ .d) (s : State) : (applyAll ops s).d = s.d := by
  induction ops generalizing s with
  | nil => rfl
  | cons op ops ih =>
    rw [applyAll_cons, ih (fun o ho => h o (List.mem_cons_of_mem _ ho)), apply_d (h op List.mem_cons_self)]

theorem applyAll_sc {ops : List MicroOp} (h : ∀ op ∈ ops, op.target ≠ .sc) (s : State) : (applyAll ops s).sc = s.sc := by
  induction ops generalizing s with
  | nil => rfl
  | cons op ops ih =>
    rw [applyAll_cons, ih (fun o ho => h o (List.mem_cons_of_mem _ ho)), apply_sc (h op List.mem_cons_self)]

@[simp] theorem applyAll_inpr (ops : List MicroOp) (s : State) : (applyAll ops s).inpr = s.inpr := by
  induction ops generalizing s with
  | nil => rfl
  | cons op ops ih => rw [applyAll_cons, ih, apply_inpr]

@[simp] theorem applyAll_q (ops : List MicroOp) (s : State) : (applyAll ops s).q = s.q := by
  induction ops generalizing s with
  | nil => rfl
  | cons op ops ih => rw [applyAll_cons, ih, apply_q]

@[simp] theorem applyAll_startable (ops : List MicroOp) (s : State) : (applyAll ops s).startable = s.startable := by
  induction ops generalizing s with
  | nil => rfl
  | cons op ops ih => rw [applyAll_cons, ih, apply_startable]

@[simp] theorem applyAll_host (ops : List MicroOp) (s : State) : (applyAll ops s).host = s.host := by
  induction ops generalizing s with
  | nil => rfl
  | cons op ops ih => rw [applyAll_cons, ih, apply_host]

theorem applyAll_wf (ops : List MicroOp) {s : State} (hs : s.mem.wf = true) : (applyAll ops s).mem.wf = true := by
  induction ops generalizing s with
  | nil => exact hs
  | cons op ops ih => exact ih (apply_wf op hs)

theorem apply_mem {op : MicroOp} (h : ∀ a, op.target ≠ .cell a) (s : State) : (op.apply s).mem = s.mem := by
  cases op with
  | write a v => exact absurd rfl (h a)
  | _ => rfl

theorem applyAll_mem {ops : List MicroOp} (h : ∀ op ∈ ops, ∀ a, op.target ≠ .cell a) (s : State) :
    (applyAll ops s).mem = s.mem := by
  induction ops generalizing s with
  | nil => rfl
  | cons op ops ih =>
    rw [applyAll_cons, ih (fun o ho => h o (List.mem_cons_of_mem _ ho)), apply_mem (h op List.mem_cons_self)]

/-! ### The tick T3 of a register-reference or input-output word -/

theorem executeT3_of_conflictFree {ops : List MicroOp} (h : conflictFree ops = true) (t : State) :
    executeT3 ops t = .next { applyAll ops t with sc := 0, r := t.r || t.requests } := if_pos h

theorem executeT3_of_conflict {ops : List MicroOp} (h : conflictFree ops = false) (t : State) :
    executeT3 ops t = .refused .writeConflict := if_neg (by simp [h])

/-- Everything `executeT3` can answer. -/
theorem executeT3_cases (ops : List MicroOp) (t : State) :
    (conflictFree ops = true ∧ executeT3 ops t = .next { applyAll ops t with sc := 0, r := t.r || t.requests }) ∨
      (conflictFree ops = false ∧ executeT3 ops t = .refused .writeConflict) := by
  cases h : conflictFree ops with
  | true => exact .inl ⟨rfl, executeT3_of_conflictFree h t⟩
  | false => exact .inr ⟨rfl, executeT3_of_conflict h t⟩

/-- If it answers a next state, that state. -/
theorem executeT3_next {ops : List MicroOp} {t u : State} (h : executeT3 ops t = .next u) :
    conflictFree ops = true ∧ u = { applyAll ops t with sc := 0, r := t.r || t.requests } := by
  rcases executeT3_cases ops t with ⟨hc, he⟩ | ⟨-, he⟩ <;> rw [he] at h
  · exact ⟨hc, (Host.Outcome.next.inj h).symm⟩
  · cases h

@[simp] theorem registerOps_zero (t : State) : registerOps 0 t = [] := by simp [registerOps]

@[simp] theorem ioOps_zero (t : State) : ioOps 0 t = [] := by simp [ioOps]

/-- The register-reference rules write AC, E, PC and S only (R180, R193). -/
theorem registerOps_target {sel : BitVec 12} {t : State} {op : MicroOp} (h : op ∈ registerOps sel t) :
    op.target = .ac ∨ op.target = .e ∨ op.target = .pc ∨ op.target = .s := by
  simp only [registerOps, claOps, cleOps, cmaOps, cmeOps, cirOps, cilOps, incOps, spaOps, snaOps, szaOps, szeOps,
    hltOps, List.mem_append] at h
  rcases h with (((((((((((h | h) | h) | h) | h) | h) | h) | h) | h) | h) | h) | h) <;> split_ifs at h <;>
    simp at h <;>
    first
    | (subst h; simp [MicroOp.target])
    | (rcases h with h | h <;> subst h <;> simp [MicroOp.target])

/-- The input-output rules write AC, OUTR, FGI, FGO, IEN and PC only (R210, R218). -/
theorem ioOps_target {sel : BitVec 12} {t : State} {op : MicroOp} (h : op ∈ ioOps sel t) :
    op.target = .ac ∨ op.target = .outr ∨ op.target = .fgi ∨ op.target = .fgo ∨ op.target = .ien ∨ op.target = .pc := by
  simp only [ioOps, inpOps, outOps, skiOps, skoOps, ionOps, iofOps, List.mem_append] at h
  rcases h with (((((h | h) | h) | h) | h) | h) <;> split_ifs at h <;>
    simp at h <;>
    first
    | (subst h; simp [MicroOp.target])
    | (rcases h with h | h <;> subst h <;> simp [MicroOp.target])

/-- A register-reference instruction is the tick T3 of all its selector bits (R193). -/
theorem exec_register {i : Instr} (h : i.family = .registerReference) (s : State) :
    exec i s = executeT3 (registerOps i.low12 (s.fetched (encode i))) (s.fetched (encode i)) := by
  cases i <;> simp [Instr.family] at h <;>
    simp [exec, execCla, execCle, execCma, execCme, execCir, execCil, execInc, execSpa, execSna, execSza, execSze,
      execHlt, execNopRegister, registerOps, Instr.low12]

/-- An input-output instruction is the tick T3 of all its selector bits (R218). -/
theorem exec_io {i : Instr} (h : i.family = .inputOutput) (s : State) :
    exec i s = executeT3 (ioOps i.low12 (s.fetched (encode i))) (s.fetched (encode i)) := by
  cases i <;> simp [Instr.family] at h <;>
    simp [exec, execInp, execOut, execSki, execSko, execIon, execIof, execNopIo, ioOps, Instr.low12]

/-- A memory-reference instruction always answers a next state (R160). -/
theorem exec_memory_next {i : Instr} (h : i.family = .memoryReference) (s : State) : ∃ t, exec i s = .next t := by
  cases i <;> simp [Instr.family] at h <;> exact ⟨_, rfl⟩

end Sys2Proof.Machine
end

