-- ==== Sys2Proof/Laws/Step.lean ====
section
/-! SUPPORT. What a tick, a run of ticks and a step can answer, said once, and that each keeps memory canonical. -/

namespace Sys2Proof.Machine

theorem advanceSc_some {k j : Fin 7} (h : advanceSc k = some j) : j.val = k.val + 1 := by
  unfold advanceSc at h
  split at h
  · exact congrArg Fin.val (Option.some.inj h).symm
  · cases h

theorem advanceSc_none {k : Fin 7} (h : advanceSc k = none) : k = 6 := by
  unfold advanceSc at h
  split at h
  · cases h
  · omega

/-- If a tick answers a next state: the machine is halted and nothing changes, or the batch is applied and SC cleared or
advanced (R120, R121, R128). -/
theorem tick_next {s t : State} (h : tick s = .next t) :
    s.q = [] ∧ ((s.s = false ∧ t = s) ∨
      (s.s = true ∧ conflictFree (batch s) = true ∧
        ((MicroOp.clearSc ∈ batch s ∧ t = { applyAll (batch s) s with sc := 0 }) ∨
          (MicroOp.clearSc ∉ batch s ∧ ∃ k, advanceSc s.sc = some k ∧ t = { applyAll (batch s) s with sc := k })))) := by
  unfold tick at h
  split_ifs at h with hq hs hc hm
  · exact ⟨not_not.1 hq, .inl ⟨hs, (Host.Outcome.next.inj h).symm⟩⟩
  · exact ⟨not_not.1 hq, .inr ⟨by simpa using hs, by simpa using hc, .inl ⟨hm, (Host.Outcome.next.inj h).symm⟩⟩⟩
  · refine ⟨not_not.1 hq, .inr ⟨by simpa using hs, by simpa using hc, .inr ⟨hm, ?_⟩⟩⟩
    cases hk : advanceSc s.sc with
    | none => simp [hk] at h
    | some k => exact ⟨k, rfl, by simpa [hk] using h.symm⟩

/-- If a split tick answers a next state: halted, or the batch is queued and SC advanced, 6 staying 6 (R130). -/
theorem tickSplit_next {s t : State} (h : tickSplit s = .next t) :
    s.q = [] ∧ ((s.s = false ∧ t = s) ∨
      (s.s = true ∧ conflictFree (batch s) = true ∧
        ((∃ k, advanceSc s.sc = some k ∧ t = { s with q := batch s, sc := k }) ∨
          (s.sc = 6 ∧ MicroOp.clearSc ∈ batch s ∧ t = { s with q := batch s })))) := by
  unfold tickSplit at h
  by_cases hq : s.q = []
  · rw [if_neg (not_not.2 hq)] at h
    refine ⟨hq, ?_⟩
    by_cases hs : s.s = false
    · rw [if_pos hs] at h
      exact .inl ⟨hs, (Host.Outcome.next.inj h).symm⟩
    · rw [if_neg hs] at h
      by_cases hc : conflictFree (batch s) = false
      · rw [if_pos hc] at h
        cases h
      · rw [if_neg hc] at h
        refine .inr ⟨by simpa using hs, by simpa using hc, ?_⟩
        cases hk : advanceSc s.sc with
        | some k => exact .inl ⟨k, rfl, by simpa [hk] using h.symm⟩
        | none =>
          simp only [hk] at h
          split_ifs at h with hm
          exact .inr ⟨advanceSc_none hk, hm, (Host.Outcome.next.inj h).symm⟩
  · rw [if_pos hq] at h
    cases h

/-- A property that every tick keeps is kept by a run of ticks. -/
theorem runCycle_induct {P : State → Prop} (htick : ∀ s t, P s → tick s = .next t → P t) {n : Nat} {s t : State}
    (hs : P s) (h : runCycle n s = .next t) : P t := by
  induction n generalizing s with
  | zero => exact (Host.Outcome.next.inj h) ▸ hs
  | succ n ih =>
    unfold runCycle at h
    cases ht : tick s with
    | next u =>
      simp only [ht] at h
      split_ifs at h
      · exact (Host.Outcome.next.inj h) ▸ htick s u hs ht
      · exact ih (htick s u hs ht) h
    | fault f => simp [ht] at h
    | refused r => simp [ht] at h

/-- Everything a step that answers a next state can have done (R146, R250). -/
theorem step_next {s t : State} (h : step s = .next t) :
    (∃ a rest, s.host = a :: rest ∧ hostAct a { s with host := rest } = .next t) ∨
    (s.host = [] ∧ s.q = [] ∧ s.s = false ∧ t = s) ∨
    (s.host = [] ∧ s.q = [] ∧ s.s = true ∧ s.sc = 0 ∧ s.r = true ∧ t = interruptCycle s) ∨
    (s.host = [] ∧ s.q = [] ∧ s.s = true ∧ s.sc = 0 ∧ s.r = false ∧ exec (decode (s.readWord s.pc)) s = .next t) ∨
    (s.host = [] ∧ s.q = [] ∧ s.s = true ∧ s.sc ≠ 0 ∧ runCycle 7 s = .next t) := by
  unfold step at h
  cases hh : s.host with
  | cons a rest => exact .inl ⟨a, rest, rfl, by simpa [hh] using h⟩
  | nil =>
    simp only [hh] at h
    split_ifs at h with hq hs hc hr
    · exact .inr (.inl ⟨rfl, not_not.1 hq, hs, (Host.Outcome.next.inj h).symm⟩)
    · exact .inr (.inr (.inl
        ⟨rfl, not_not.1 hq, by simpa using hs, hc, hr, (Host.Outcome.next.inj h).symm⟩))
    · exact .inr (.inr (.inr (.inl ⟨rfl, not_not.1 hq, by simpa using hs, hc, by simpa using hr, h⟩)))
    · exact .inr (.inr (.inr (.inr ⟨rfl, not_not.1 hq, by simpa using hs, hc, h⟩)))

/-! ### The canonical form of memory -/

theorem exec_wf {i : Instr} {s t : State} (hs : s.mem.wf = true) (h : exec i s = .next t) : t.mem.wf = true := by
  cases hf : i.family with
  | memoryReference =>
    cases i <;> simp [Instr.family] at hf <;> obtain rfl := Host.Outcome.next.inj h <;>
      first
      | exact hs
      | exact writeWord_wf _ _ hs
  | registerReference =>
    rw [exec_register hf] at h
    exact (executeT3_next h).2 ▸ applyAll_wf _ (show (s.fetched (encode i)).mem.wf = true from hs)
  | inputOutput =>
    rw [exec_io hf] at h
    exact (executeT3_next h).2 ▸ applyAll_wf _ (show (s.fetched (encode i)).mem.wf = true from hs)

theorem interruptCycle_wf {s : State} (hs : s.mem.wf = true) : (interruptCycle s).mem.wf = true :=
  writeWord_wf _ _ hs

theorem tick_wf {s t : State} (hs : s.mem.wf = true) (h : tick s = .next t) : t.mem.wf = true := by
  obtain ⟨-, ⟨-, rfl⟩ | ⟨-, -, ⟨-, rfl⟩ | ⟨-, k, -, rfl⟩⟩⟩ := tick_next h
  · exact hs
  · exact applyAll_wf _ hs
  · exact applyAll_wf _ hs

theorem runCycle_wf {n : Nat} {s t : State} (hs : s.mem.wf = true) (h : runCycle n s = .next t) : t.mem.wf = true :=
  runCycle_induct (P := fun u => u.mem.wf = true) (fun _ _ => tick_wf) hs h

/-- The memory Load builds is canonical, the Program's addresses being 12 bits wide. -/
theorem loadedMemory_wf {p : Program} (hp : programInRange p = true) : (loadedMemory p).wf = true := by
  have key : ∀ (ws : List Emitted) (m : Memory), (∀ w ∈ ws, w.address < Config.memWords) → m.wf = true →
      Memory.wf (ws.foldl (fun m w => m.put w.address (loadedCell p.labels w)) m) = true := by
    intro ws
    induction ws with
    | nil => exact fun _ _ hm => hm
    | cons w ws ih =>
      exact fun m hw hm => ih _ (fun v hv => hw v (List.mem_cons_of_mem _ hv))
        (Memory.wf_put _ hm (hw w List.mem_cons_self))
  refine key _ _ (fun w hw => ?_) rfl
  have h := (Bool.and_eq_true _ _ ▸ hp : _ ∧ _).2
  have hw' := List.all_eq_true.1 h w hw
  simp only [Bool.and_eq_true, decide_eq_true_eq] at hw'
  exact hw'.1

end Sys2Proof.Machine
end

