-- ==== Sys2Proof/Laws/Catalog.lean ====
section
/-! SUPPORT. Which rules fire together (R139): the batch of a tick at each T-state, from the whole catalog. -/

namespace Sys2Proof.Machine

/-- What rule IRQ contributes at SC >= 3 (R232). -/
def irqOps (s : State) : List MicroOp := if s.requests then [.setR true] else []

/-- T0 of an instruction cycle (R131). -/
theorem batch_F0 {s : State} (hr : s.r = false) (h : s.sc = 0) :
    batch s = [.setAr s.pc] := by
  simp [batch, catalog, Rule.fire, ruleF0, ruleF1, ruleDec, ruleInd, ruleIrq, ruleInt0, ruleInt1, ruleInt2,
    ruleAnd4, ruleAnd5, ruleAdd4, ruleAdd5, ruleLda4, ruleLda5, ruleSta4, ruleBun4, ruleBsa4, ruleBsa5,
    ruleIsz4, ruleIsz5, ruleIsz6, ruleRegister, ruleCla, ruleCle, ruleCma, ruleCme, ruleCir, ruleCil, ruleInc,
    ruleSpa, ruleSna, ruleSza, ruleSze, ruleHlt, ruleIo, ruleInp, ruleOut, ruleSki, ruleSko, ruleIon, ruleIof,
    sigT, sigD, sigB, sigRegister, sigIo, sigLate, hr, h]

/-- T1 of an instruction cycle (R132). -/
theorem batch_F1 {s : State} (hr : s.r = false) (h : s.sc = 1) :
    batch s = [.setIr (s.readWord s.ar), .setPc (s.pc + 1)] := by
  simp [batch, catalog, Rule.fire, ruleF0, ruleF1, ruleDec, ruleInd, ruleIrq, ruleInt0, ruleInt1, ruleInt2,
    ruleAnd4, ruleAnd5, ruleAdd4, ruleAdd5, ruleLda4, ruleLda5, ruleSta4, ruleBun4, ruleBsa4, ruleBsa5,
    ruleIsz4, ruleIsz5, ruleIsz6, ruleRegister, ruleCla, ruleCle, ruleCma, ruleCme, ruleCir, ruleCil, ruleInc,
    ruleSpa, ruleSna, ruleSza, ruleSze, ruleHlt, ruleIo, ruleInp, ruleOut, ruleSki, ruleSko, ruleIon, ruleIof,
    sigT, sigD, sigB, sigRegister, sigIo, sigLate, hr, h]

/-- T2 of an instruction cycle (R133). -/
theorem batch_DEC {s : State} (hr : s.r = false) (h : s.sc = 2) :
    batch s = [.setD (onehot8 (opClassOf s.ir)), .setAr (addressOf s.ir), .setI (indirectBitOf s.ir)] := by
  simp [batch, catalog, Rule.fire, ruleF0, ruleF1, ruleDec, ruleInd, ruleIrq, ruleInt0, ruleInt1, ruleInt2,
    ruleAnd4, ruleAnd5, ruleAdd4, ruleAdd5, ruleLda4, ruleLda5, ruleSta4, ruleBun4, ruleBsa4, ruleBsa5,
    ruleIsz4, ruleIsz5, ruleIsz6, ruleRegister, ruleCla, ruleCle, ruleCma, ruleCme, ruleCir, ruleCil, ruleInc,
    ruleSpa, ruleSna, ruleSza, ruleSze, ruleHlt, ruleIo, ruleInp, ruleOut, ruleSki, ruleSko, ruleIon, ruleIof,
    sigT, sigD, sigB, sigRegister, sigIo, sigLate, hr, h]

/-- T0 of an interrupt cycle (R233). -/
theorem batch_INT0 {s : State} (hr : s.r = true) (h : s.sc = 0) :
    batch s = [.setAr 0, .setTr (zext16 s.pc)] := by
  simp [batch, catalog, Rule.fire, ruleF0, ruleF1, ruleDec, ruleInd, ruleIrq, ruleInt0, ruleInt1, ruleInt2,
    ruleAnd4, ruleAnd5, ruleAdd4, ruleAdd5, ruleLda4, ruleLda5, ruleSta4, ruleBun4, ruleBsa4, ruleBsa5,
    ruleIsz4, ruleIsz5, ruleIsz6, ruleRegister, ruleCla, ruleCle, ruleCma, ruleCme, ruleCir, ruleCil, ruleInc,
    ruleSpa, ruleSna, ruleSza, ruleSze, ruleHlt, ruleIo, ruleInp, ruleOut, ruleSki, ruleSko, ruleIon, ruleIof,
    sigT, sigD, sigB, sigRegister, sigIo, sigLate, hr, h]

/-- T1 of an interrupt cycle (R234). -/
theorem batch_INT1 {s : State} (hr : s.r = true) (h : s.sc = 1) :
    batch s = [.write s.ar s.tr, .setPc 0] := by
  simp [batch, catalog, Rule.fire, ruleF0, ruleF1, ruleDec, ruleInd, ruleIrq, ruleInt0, ruleInt1, ruleInt2,
    ruleAnd4, ruleAnd5, ruleAdd4, ruleAdd5, ruleLda4, ruleLda5, ruleSta4, ruleBun4, ruleBsa4, ruleBsa5,
    ruleIsz4, ruleIsz5, ruleIsz6, ruleRegister, ruleCla, ruleCle, ruleCma, ruleCme, ruleCir, ruleCil, ruleInc,
    ruleSpa, ruleSna, ruleSza, ruleSze, ruleHlt, ruleIo, ruleInp, ruleOut, ruleSki, ruleSko, ruleIon, ruleIof,
    sigT, sigD, sigB, sigRegister, sigIo, sigLate, hr, h]

/-- T2 of an interrupt cycle (R235). -/
theorem batch_INT2 {s : State} (hr : s.r = true) (h : s.sc = 2) :
    batch s = [.setPc (s.pc + 1), .setIen false, .setR false, .clearSc] := by
  simp [batch, catalog, Rule.fire, ruleF0, ruleF1, ruleDec, ruleInd, ruleIrq, ruleInt0, ruleInt1, ruleInt2,
    ruleAnd4, ruleAnd5, ruleAdd4, ruleAdd5, ruleLda4, ruleLda5, ruleSta4, ruleBun4, ruleBsa4, ruleBsa5,
    ruleIsz4, ruleIsz5, ruleIsz6, ruleRegister, ruleCla, ruleCle, ruleCma, ruleCme, ruleCir, ruleCil, ruleInc,
    ruleSpa, ruleSna, ruleSza, ruleSze, ruleHlt, ruleIo, ruleInp, ruleOut, ruleSki, ruleSko, ruleIon, ruleIof,
    sigT, sigD, sigB, sigRegister, sigIo, sigLate, hr, h]

/-- T3 of AND (R134, R135). -/
theorem batch_and_T3 {s : State} (hd : s.d = 0x01) (h : s.sc = 3) :
    batch s = (if s.i then [.setAr (low12 (s.readWord s.ar))] else []) ++ irqOps s := by
  simp [batch, catalog, Rule.fire, ruleF0, ruleF1, ruleDec, ruleInd, ruleIrq, ruleInt0, ruleInt1, ruleInt2,
    ruleAnd4, ruleAnd5, ruleAdd4, ruleAdd5, ruleLda4, ruleLda5, ruleSta4, ruleBun4, ruleBsa4, ruleBsa5,
    ruleIsz4, ruleIsz5, ruleIsz6, ruleRegister, ruleCla, ruleCle, ruleCma, ruleCme, ruleCir, ruleCil, ruleInc,
    ruleSpa, ruleSna, ruleSza, ruleSze, ruleHlt, ruleIo, ruleInp, ruleOut, ruleSki, ruleSko, ruleIon, ruleIof,
    sigT, sigD, sigB, sigRegister, sigIo, sigLate, irqOps, hd, h]

/-- T3 of ADD (R134, R135). -/
theorem batch_add_T3 {s : State} (hd : s.d = 0x02) (h : s.sc = 3) :
    batch s = (if s.i then [.setAr (low12 (s.readWord s.ar))] else []) ++ irqOps s := by
  simp [batch, catalog, Rule.fire, ruleF0, ruleF1, ruleDec, ruleInd, ruleIrq, ruleInt0, ruleInt1, ruleInt2,
    ruleAnd4, ruleAnd5, ruleAdd4, ruleAdd5, ruleLda4, ruleLda5, ruleSta4, ruleBun4, ruleBsa4, ruleBsa5,
    ruleIsz4, ruleIsz5, ruleIsz6, ruleRegister, ruleCla, ruleCle, ruleCma, ruleCme, ruleCir, ruleCil, ruleInc,
    ruleSpa, ruleSna, ruleSza, ruleSze, ruleHlt, ruleIo, ruleInp, ruleOut, ruleSki, ruleSko, ruleIon, ruleIof,
    sigT, sigD, sigB, sigRegister, sigIo, sigLate, irqOps, hd, h]

/-- T3 of LDA (R134, R135). -/
theorem batch_lda_T3 {s : State} (hd : s.d = 0x04) (h : s.sc = 3) :
    batch s = (if s.i then [.setAr (low12 (s.readWord s.ar))] else []) ++ irqOps s := by
  simp [batch, catalog, Rule.fire, ruleF0, ruleF1, ruleDec, ruleInd, ruleIrq, ruleInt0, ruleInt1, ruleInt2,
    ruleAnd4, ruleAnd5, ruleAdd4, ruleAdd5, ruleLda4, ruleLda5, ruleSta4, ruleBun4, ruleBsa4, ruleBsa5,
    ruleIsz4, ruleIsz5, ruleIsz6, ruleRegister, ruleCla, ruleCle, ruleCma, ruleCme, ruleCir, ruleCil, ruleInc,
    ruleSpa, ruleSna, ruleSza, ruleSze, ruleHlt, ruleIo, ruleInp, ruleOut, ruleSki, ruleSko, ruleIon, ruleIof,
    sigT, sigD, sigB, sigRegister, sigIo, sigLate, irqOps, hd, h]

/-- T3 of STA (R134, R135). -/
theorem batch_sta_T3 {s : State} (hd : s.d = 0x08) (h : s.sc = 3) :
    batch s = (if s.i then [.setAr (low12 (s.readWord s.ar))] else []) ++ irqOps s := by
  simp [batch, catalog, Rule.fire, ruleF0, ruleF1, ruleDec, ruleInd, ruleIrq, ruleInt0, ruleInt1, ruleInt2,
    ruleAnd4, ruleAnd5, ruleAdd4, ruleAdd5, ruleLda4, ruleLda5, ruleSta4, ruleBun4, ruleBsa4, ruleBsa5,
    ruleIsz4, ruleIsz5, ruleIsz6, ruleRegister, ruleCla, ruleCle, ruleCma, ruleCme, ruleCir, ruleCil, ruleInc,
    ruleSpa, ruleSna, ruleSza, ruleSze, ruleHlt, ruleIo, ruleInp, ruleOut, ruleSki, ruleSko, ruleIon, ruleIof,
    sigT, sigD, sigB, sigRegister, sigIo, sigLate, irqOps, hd, h]

/-- T3 of BUN (R134, R135). -/
theorem batch_bun_T3 {s : State} (hd : s.d = 0x10) (h : s.sc = 3) :
    batch s = (if s.i then [.setAr (low12 (s.readWord s.ar))] else []) ++ irqOps s := by
  simp [batch, catalog, Rule.fire, ruleF0, ruleF1, ruleDec, ruleInd, ruleIrq, ruleInt0, ruleInt1, ruleInt2,
    ruleAnd4, ruleAnd5, ruleAdd4, ruleAdd5, ruleLda4, ruleLda5, ruleSta4, ruleBun4, ruleBsa4, ruleBsa5,
    ruleIsz4, ruleIsz5, ruleIsz6, ruleRegister, ruleCla, ruleCle, ruleCma, ruleCme, ruleCir, ruleCil, ruleInc,
    ruleSpa, ruleSna, ruleSza, ruleSze, ruleHlt, ruleIo, ruleInp, ruleOut, ruleSki, ruleSko, ruleIon, ruleIof,
    sigT, sigD, sigB, sigRegister, sigIo, sigLate, irqOps, hd, h]

/-- T3 of BSA (R134, R135). -/
theorem batch_bsa_T3 {s : State} (hd : s.d = 0x20) (h : s.sc = 3) :
    batch s = (if s.i then [.setAr (low12 (s.readWord s.ar))] else []) ++ irqOps s := by
  simp [batch, catalog, Rule.fire, ruleF0, ruleF1, ruleDec, ruleInd, ruleIrq, ruleInt0, ruleInt1, ruleInt2,
    ruleAnd4, ruleAnd5, ruleAdd4, ruleAdd5, ruleLda4, ruleLda5, ruleSta4, ruleBun4, ruleBsa4, ruleBsa5,
    ruleIsz4, ruleIsz5, ruleIsz6, ruleRegister, ruleCla, ruleCle, ruleCma, ruleCme, ruleCir, ruleCil, ruleInc,
    ruleSpa, ruleSna, ruleSza, ruleSze, ruleHlt, ruleIo, ruleInp, ruleOut, ruleSki, ruleSko, ruleIon, ruleIof,
    sigT, sigD, sigB, sigRegister, sigIo, sigLate, irqOps, hd, h]

/-- T3 of ISZ (R134, R135). -/
theorem batch_isz_T3 {s : State} (hd : s.d = 0x40) (h : s.sc = 3) :
    batch s = (if s.i then [.setAr (low12 (s.readWord s.ar))] else []) ++ irqOps s := by
  simp [batch, catalog, Rule.fire, ruleF0, ruleF1, ruleDec, ruleInd, ruleIrq, ruleInt0, ruleInt1, ruleInt2,
    ruleAnd4, ruleAnd5, ruleAdd4, ruleAdd5, ruleLda4, ruleLda5, ruleSta4, ruleBun4, ruleBsa4, ruleBsa5,
    ruleIsz4, ruleIsz5, ruleIsz6, ruleRegister, ruleCla, ruleCle, ruleCma, ruleCme, ruleCir, ruleCil, ruleInc,
    ruleSpa, ruleSna, ruleSza, ruleSze, ruleHlt, ruleIo, ruleInp, ruleOut, ruleSki, ruleSko, ruleIon, ruleIof,
    sigT, sigD, sigB, sigRegister, sigIo, sigLate, irqOps, hd, h]

/-- T4 of AND. -/
theorem batch_and_T4 {s : State} (hd : s.d = 0x01) (h : s.sc = 4) :
    batch s = irqOps s ++ [.setDr (s.readWord s.ar)] := by
  simp [batch, catalog, Rule.fire, ruleF0, ruleF1, ruleDec, ruleInd, ruleIrq, ruleInt0, ruleInt1, ruleInt2,
    ruleAnd4, ruleAnd5, ruleAdd4, ruleAdd5, ruleLda4, ruleLda5, ruleSta4, ruleBun4, ruleBsa4, ruleBsa5,
    ruleIsz4, ruleIsz5, ruleIsz6, ruleRegister, ruleCla, ruleCle, ruleCma, ruleCme, ruleCir, ruleCil, ruleInc,
    ruleSpa, ruleSna, ruleSza, ruleSze, ruleHlt, ruleIo, ruleInp, ruleOut, ruleSki, ruleSko, ruleIon, ruleIof,
    sigT, sigD, sigB, sigRegister, sigIo, sigLate, irqOps, hd, h]

/-- T5 of AND. -/
theorem batch_and_T5 {s : State} (hd : s.d = 0x01) (h : s.sc = 5) :
    batch s = irqOps s ++ [.setAc (s.ac &&& s.dr), .clearSc] := by
  simp [batch, catalog, Rule.fire, ruleF0, ruleF1, ruleDec, ruleInd, ruleIrq, ruleInt0, ruleInt1, ruleInt2,
    ruleAnd4, ruleAnd5, ruleAdd4, ruleAdd5, ruleLda4, ruleLda5, ruleSta4, ruleBun4, ruleBsa4, ruleBsa5,
    ruleIsz4, ruleIsz5, ruleIsz6, ruleRegister, ruleCla, ruleCle, ruleCma, ruleCme, ruleCir, ruleCil, ruleInc,
    ruleSpa, ruleSna, ruleSza, ruleSze, ruleHlt, ruleIo, ruleInp, ruleOut, ruleSki, ruleSko, ruleIon, ruleIof,
    sigT, sigD, sigB, sigRegister, sigIo, sigLate, irqOps, hd, h]

/-- T4 of ADD. -/
theorem batch_add_T4 {s : State} (hd : s.d = 0x02) (h : s.sc = 4) :
    batch s = irqOps s ++ [.setDr (s.readWord s.ar)] := by
  simp [batch, catalog, Rule.fire, ruleF0, ruleF1, ruleDec, ruleInd, ruleIrq, ruleInt0, ruleInt1, ruleInt2,
    ruleAnd4, ruleAnd5, ruleAdd4, ruleAdd5, ruleLda4, ruleLda5, ruleSta4, ruleBun4, ruleBsa4, ruleBsa5,
    ruleIsz4, ruleIsz5, ruleIsz6, ruleRegister, ruleCla, ruleCle, ruleCma, ruleCme, ruleCir, ruleCil, ruleInc,
    ruleSpa, ruleSna, ruleSza, ruleSze, ruleHlt, ruleIo, ruleInp, ruleOut, ruleSki, ruleSko, ruleIon, ruleIof,
    sigT, sigD, sigB, sigRegister, sigIo, sigLate, irqOps, hd, h]

/-- T5 of ADD. -/
theorem batch_add_T5 {s : State} (hd : s.d = 0x02) (h : s.sc = 5) :
    batch s = irqOps s ++ [.setAc (addResult s.ac s.dr), .setE (addCarry s.ac s.dr), .clearSc] := by
  simp [batch, catalog, Rule.fire, ruleF0, ruleF1, ruleDec, ruleInd, ruleIrq, ruleInt0, ruleInt1, ruleInt2,
    ruleAnd4, ruleAnd5, ruleAdd4, ruleAdd5, ruleLda4, ruleLda5, ruleSta4, ruleBun4, ruleBsa4, ruleBsa5,
    ruleIsz4, ruleIsz5, ruleIsz6, ruleRegister, ruleCla, ruleCle, ruleCma, ruleCme, ruleCir, ruleCil, ruleInc,
    ruleSpa, ruleSna, ruleSza, ruleSze, ruleHlt, ruleIo, ruleInp, ruleOut, ruleSki, ruleSko, ruleIon, ruleIof,
    sigT, sigD, sigB, sigRegister, sigIo, sigLate, irqOps, hd, h]

/-- T4 of LDA. -/
theorem batch_lda_T4 {s : State} (hd : s.d = 0x04) (h : s.sc = 4) :
    batch s = irqOps s ++ [.setDr (s.readWord s.ar)] := by
  simp [batch, catalog, Rule.fire, ruleF0, ruleF1, ruleDec, ruleInd, ruleIrq, ruleInt0, ruleInt1, ruleInt2,
    ruleAnd4, ruleAnd5, ruleAdd4, ruleAdd5, ruleLda4, ruleLda5, ruleSta4, ruleBun4, ruleBsa4, ruleBsa5,
    ruleIsz4, ruleIsz5, ruleIsz6, ruleRegister, ruleCla, ruleCle, ruleCma, ruleCme, ruleCir, ruleCil, ruleInc,
    ruleSpa, ruleSna, ruleSza, ruleSze, ruleHlt, ruleIo, ruleInp, ruleOut, ruleSki, ruleSko, ruleIon, ruleIof,
    sigT, sigD, sigB, sigRegister, sigIo, sigLate, irqOps, hd, h]

/-- T5 of LDA. -/
theorem batch_lda_T5 {s : State} (hd : s.d = 0x04) (h : s.sc = 5) :
    batch s = irqOps s ++ [.setAc s.dr, .clearSc] := by
  simp [batch, catalog, Rule.fire, ruleF0, ruleF1, ruleDec, ruleInd, ruleIrq, ruleInt0, ruleInt1, ruleInt2,
    ruleAnd4, ruleAnd5, ruleAdd4, ruleAdd5, ruleLda4, ruleLda5, ruleSta4, ruleBun4, ruleBsa4, ruleBsa5,
    ruleIsz4, ruleIsz5, ruleIsz6, ruleRegister, ruleCla, ruleCle, ruleCma, ruleCme, ruleCir, ruleCil, ruleInc,
    ruleSpa, ruleSna, ruleSza, ruleSze, ruleHlt, ruleIo, ruleInp, ruleOut, ruleSki, ruleSko, ruleIon, ruleIof,
    sigT, sigD, sigB, sigRegister, sigIo, sigLate, irqOps, hd, h]

/-- T4 of STA. -/
theorem batch_sta_T4 {s : State} (hd : s.d = 0x08) (h : s.sc = 4) :
    batch s = irqOps s ++ [.write s.ar s.ac, .clearSc] := by
  simp [batch, catalog, Rule.fire, ruleF0, ruleF1, ruleDec, ruleInd, ruleIrq, ruleInt0, ruleInt1, ruleInt2,
    ruleAnd4, ruleAnd5, ruleAdd4, ruleAdd5, ruleLda4, ruleLda5, ruleSta4, ruleBun4, ruleBsa4, ruleBsa5,
    ruleIsz4, ruleIsz5, ruleIsz6, ruleRegister, ruleCla, ruleCle, ruleCma, ruleCme, ruleCir, ruleCil, ruleInc,
    ruleSpa, ruleSna, ruleSza, ruleSze, ruleHlt, ruleIo, ruleInp, ruleOut, ruleSki, ruleSko, ruleIon, ruleIof,
    sigT, sigD, sigB, sigRegister, sigIo, sigLate, irqOps, hd, h]

/-- T4 of BUN. -/
theorem batch_bun_T4 {s : State} (hd : s.d = 0x10) (h : s.sc = 4) :
    batch s = irqOps s ++ [.setPc s.ar, .clearSc] := by
  simp [batch, catalog, Rule.fire, ruleF0, ruleF1, ruleDec, ruleInd, ruleIrq, ruleInt0, ruleInt1, ruleInt2,
    ruleAnd4, ruleAnd5, ruleAdd4, ruleAdd5, ruleLda4, ruleLda5, ruleSta4, ruleBun4, ruleBsa4, ruleBsa5,
    ruleIsz4, ruleIsz5, ruleIsz6, ruleRegister, ruleCla, ruleCle, ruleCma, ruleCme, ruleCir, ruleCil, ruleInc,
    ruleSpa, ruleSna, ruleSza, ruleSze, ruleHlt, ruleIo, ruleInp, ruleOut, ruleSki, ruleSko, ruleIon, ruleIof,
    sigT, sigD, sigB, sigRegister, sigIo, sigLate, irqOps, hd, h]

/-- T4 of BSA. -/
theorem batch_bsa_T4 {s : State} (hd : s.d = 0x20) (h : s.sc = 4) :
    batch s = irqOps s ++ [.write s.ar (zext16 s.pc), .setAr (s.ar + 1)] := by
  simp [batch, catalog, Rule.fire, ruleF0, ruleF1, ruleDec, ruleInd, ruleIrq, ruleInt0, ruleInt1, ruleInt2,
    ruleAnd4, ruleAnd5, ruleAdd4, ruleAdd5, ruleLda4, ruleLda5, ruleSta4, ruleBun4, ruleBsa4, ruleBsa5,
    ruleIsz4, ruleIsz5, ruleIsz6, ruleRegister, ruleCla, ruleCle, ruleCma, ruleCme, ruleCir, ruleCil, ruleInc,
    ruleSpa, ruleSna, ruleSza, ruleSze, ruleHlt, ruleIo, ruleInp, ruleOut, ruleSki, ruleSko, ruleIon, ruleIof,
    sigT, sigD, sigB, sigRegister, sigIo, sigLate, irqOps, hd, h]

/-- T5 of BSA. -/
theorem batch_bsa_T5 {s : State} (hd : s.d = 0x20) (h : s.sc = 5) :
    batch s = irqOps s ++ [.setPc s.ar, .clearSc] := by
  simp [batch, catalog, Rule.fire, ruleF0, ruleF1, ruleDec, ruleInd, ruleIrq, ruleInt0, ruleInt1, ruleInt2,
    ruleAnd4, ruleAnd5, ruleAdd4, ruleAdd5, ruleLda4, ruleLda5, ruleSta4, ruleBun4, ruleBsa4, ruleBsa5,
    ruleIsz4, ruleIsz5, ruleIsz6, ruleRegister, ruleCla, ruleCle, ruleCma, ruleCme, ruleCir, ruleCil, ruleInc,
    ruleSpa, ruleSna, ruleSza, ruleSze, ruleHlt, ruleIo, ruleInp, ruleOut, ruleSki, ruleSko, ruleIon, ruleIof,
    sigT, sigD, sigB, sigRegister, sigIo, sigLate, irqOps, hd, h]

/-- T4 of ISZ. -/
theorem batch_isz_T4 {s : State} (hd : s.d = 0x40) (h : s.sc = 4) :
    batch s = irqOps s ++ [.setDr (s.readWord s.ar)] := by
  simp [batch, catalog, Rule.fire, ruleF0, ruleF1, ruleDec, ruleInd, ruleIrq, ruleInt0, ruleInt1, ruleInt2,
    ruleAnd4, ruleAnd5, ruleAdd4, ruleAdd5, ruleLda4, ruleLda5, ruleSta4, ruleBun4, ruleBsa4, ruleBsa5,
    ruleIsz4, ruleIsz5, ruleIsz6, ruleRegister, ruleCla, ruleCle, ruleCma, ruleCme, ruleCir, ruleCil, ruleInc,
    ruleSpa, ruleSna, ruleSza, ruleSze, ruleHlt, ruleIo, ruleInp, ruleOut, ruleSki, ruleSko, ruleIon, ruleIof,
    sigT, sigD, sigB, sigRegister, sigIo, sigLate, irqOps, hd, h]

/-- T5 of ISZ. -/
theorem batch_isz_T5 {s : State} (hd : s.d = 0x40) (h : s.sc = 5) :
    batch s = irqOps s ++ [.setDr (s.dr + 1)] := by
  simp [batch, catalog, Rule.fire, ruleF0, ruleF1, ruleDec, ruleInd, ruleIrq, ruleInt0, ruleInt1, ruleInt2,
    ruleAnd4, ruleAnd5, ruleAdd4, ruleAdd5, ruleLda4, ruleLda5, ruleSta4, ruleBun4, ruleBsa4, ruleBsa5,
    ruleIsz4, ruleIsz5, ruleIsz6, ruleRegister, ruleCla, ruleCle, ruleCma, ruleCme, ruleCir, ruleCil, ruleInc,
    ruleSpa, ruleSna, ruleSza, ruleSze, ruleHlt, ruleIo, ruleInp, ruleOut, ruleSki, ruleSko, ruleIon, ruleIof,
    sigT, sigD, sigB, sigRegister, sigIo, sigLate, irqOps, hd, h]

/-- T6 of ISZ. -/
theorem batch_isz_T6 {s : State} (hd : s.d = 0x40) (h : s.sc = 6) :
    batch s = irqOps s ++ ([.write s.ar s.dr] ++ (if s.dr = 0 then [.setPc (s.pc + 1)] else []) ++ [.clearSc]) := by
  simp [batch, catalog, Rule.fire, ruleF0, ruleF1, ruleDec, ruleInd, ruleIrq, ruleInt0, ruleInt1, ruleInt2,
    ruleAnd4, ruleAnd5, ruleAdd4, ruleAdd5, ruleLda4, ruleLda5, ruleSta4, ruleBun4, ruleBsa4, ruleBsa5,
    ruleIsz4, ruleIsz5, ruleIsz6, ruleRegister, ruleCla, ruleCle, ruleCma, ruleCme, ruleCir, ruleCil, ruleInc,
    ruleSpa, ruleSna, ruleSza, ruleSze, ruleHlt, ruleIo, ruleInp, ruleOut, ruleSki, ruleSko, ruleIon, ruleIof,
    sigT, sigD, sigB, sigRegister, sigIo, sigLate, irqOps, hd, h]

theorem addressOf_bit (w : Word) (k : Nat) (hk : k < 12) : (addressOf w)[k] = w.getLsbD k := by
  simp [addressOf, BitVec.getElem_extractLsb']

/-- T3 of a register-reference word: r and one rule for each set bit (R180, R193). -/
theorem batch_register_T3 {s : State} (hd : s.d = 0x80) (hi : s.i = false) (h : s.sc = 3) :
    batch s = irqOps s ++ .clearSc :: registerOps (addressOf s.ir) s := by
  simp [batch, catalog, Rule.fire, ruleF0, ruleF1, ruleDec, ruleInd, ruleIrq, ruleInt0, ruleInt1, ruleInt2,
    ruleAnd4, ruleAnd5, ruleAdd4, ruleAdd5, ruleLda4, ruleLda5, ruleSta4, ruleBun4, ruleBsa4, ruleBsa5,
    ruleIsz4, ruleIsz5, ruleIsz6, ruleRegister, ruleCla, ruleCle, ruleCma, ruleCme, ruleCir, ruleCil, ruleInc,
    ruleSpa, ruleSna, ruleSza, ruleSze, ruleHlt, ruleIo, ruleInp, ruleOut, ruleSki, ruleSko, ruleIon, ruleIof,
    sigT, sigD, sigB, sigRegister, sigIo, sigLate, irqOps, hd, hi, h, registerOps, addressOf_bit]

/-- T3 of an input-output word: p and one rule for each set bit (R210, R218). -/
theorem batch_io_T3 {s : State} (hd : s.d = 0x80) (hi : s.i = true) (h : s.sc = 3) :
    batch s = irqOps s ++ .clearSc :: ioOps (addressOf s.ir) s := by
  simp [batch, catalog, Rule.fire, ruleF0, ruleF1, ruleDec, ruleInd, ruleIrq, ruleInt0, ruleInt1, ruleInt2,
    ruleAnd4, ruleAnd5, ruleAdd4, ruleAdd5, ruleLda4, ruleLda5, ruleSta4, ruleBun4, ruleBsa4, ruleBsa5,
    ruleIsz4, ruleIsz5, ruleIsz6, ruleRegister, ruleCla, ruleCle, ruleCma, ruleCme, ruleCir, ruleCil, ruleInc,
    ruleSpa, ruleSna, ruleSza, ruleSze, ruleHlt, ruleIo, ruleInp, ruleOut, ruleSki, ruleSko, ruleIon, ruleIof,
    sigT, sigD, sigB, sigRegister, sigIo, sigLate, irqOps, hd, hi, h, ioOps, addressOf_bit]

end Sys2Proof.Machine
end

