-- ==== Sys2Proof/Laws/Conflict.lean ====
section
/-! SUPPORT. When a batch, and the tick T3 of a combined word, has a write conflict (R142, R193, R218). -/

namespace Sys2Proof.Machine

/-- A batch is free of conflicts when no target but SC occurs twice (R142). -/
theorem conflictFree_iff (ops : List MicroOp) :
    conflictFree ops = true ↔ ∀ x, x ≠ Target.sc → (ops.map MicroOp.target).count x ≤ 1 := by
  rw [conflictFree, targets, decide_eq_true_iff, List.nodup_iff_count_le_one]
  refine ⟨fun h x hx => ?_, fun h x => ?_⟩
  · have := h x
    rwa [List.count_filter (by simpa using hx)] at this
  · by_cases hx : x = .sc
    · subst hx
      rw [List.count_eq_zero.2 (by simp)]
      omega
    · rw [List.count_filter (by simpa using hx)]
      exact h x hx

/-- How often a target occurs in a batch. -/
def targetCount (x : Target) (ops : List MicroOp) : Nat := (ops.map MicroOp.target).count x

theorem targetCount_nil (x : Target) : targetCount x [] = 0 := rfl

theorem targetCount_cons (x : Target) (op : MicroOp) (ops : List MicroOp) :
    targetCount x (op :: ops) = (if op.target = x then 1 else 0) + targetCount x ops := by
  simp only [targetCount, List.map_cons, List.count_cons, beq_iff_eq]
  omega

theorem targetCount_append (x : Target) (a b : List MicroOp) :
    targetCount x (a ++ b) = targetCount x a + targetCount x b := by
  simp [targetCount]

theorem targetCount_if (x : Target) (b : Bool) (l : List MicroOp) :
    targetCount x (if b then l else []) = if b then targetCount x l else 0 := by
  cases b <;> simp [targetCount]

/-- The conflicts of a register-reference word: two writers of AC, two of E, or two skips taken (R142, R193). -/
theorem conflictFree_registerOps (sel : BitVec 12) (t : State) :
    conflictFree (registerOps sel t) = (oneAcWriter sel && oneEWriter sel && decide (skipsTaken sel t ≤ 1)) := by
  rw [Bool.eq_iff_iff, conflictFree_iff]
  have key : ∀ x, targetCount x (registerOps sel t) =
      if x = .ac then [sel[11], sel[9], sel[7], sel[6], sel[5]].count true
      else if x = .e then [sel[10], sel[8], sel[7], sel[6]].count true
      else if x = .pc then skipsTaken sel t
      else if x = .s then (if sel[0] then 1 else 0) else 0 := by
    intro x
    simp only [registerOps, targetCount_append, targetCount_if, claOps, cleOps, cmaOps, cmeOps, cirOps, cilOps, incOps,
      spaOps, snaOps, szaOps, szeOps, hltOps, targetCount_cons, targetCount_nil, MicroOp.target, skipsTaken,
      List.count_cons, List.count_nil]
    cases x
    case ac => simp; ring
    case e => simp; ring
    case pc => simp [ite_and]; ring
    case s => simp
    all_goals simp
  simp only [targetCount] at key
  simp only [key, Bool.and_eq_true, decide_eq_true_eq, oneAcWriter, oneEWriter]
  constructor
  · intro h
    exact ⟨⟨by simpa using h .ac (by simp), by simpa using h .e (by simp)⟩, by simpa using h .pc (by simp)⟩
  · rintro ⟨⟨ha, he⟩, hp⟩ x -
    split_ifs <;> first | assumption | omega

/-- The conflicts of an input-output word: ION with IOF, or SKI and SKO both taken (R142, R218). -/
theorem conflictFree_ioOps (sel : BitVec 12) (t : State) :
    conflictFree (ioOps sel t) = (oneIenWriter sel && decide (ioSkipsTaken sel t ≤ 1)) := by
  rw [Bool.eq_iff_iff, conflictFree_iff]
  have key : ∀ x, targetCount x (ioOps sel t) =
      if x = .ac then (if sel[11] then 1 else 0)
      else if x = .fgi then (if sel[11] then 1 else 0)
      else if x = .outr then (if sel[10] then 1 else 0)
      else if x = .fgo then (if sel[10] then 1 else 0)
      else if x = .pc then ioSkipsTaken sel t
      else if x = .ien then [sel[7], sel[6]].count true else 0 := by
    intro x
    simp only [ioOps, targetCount_append, targetCount_if, inpOps, outOps, skiOps, skoOps, ionOps, iofOps,
      targetCount_cons, targetCount_nil, MicroOp.target, ioSkipsTaken, List.count_cons, List.count_nil]
    cases x
    case pc => simp [ite_and]; ring
    case ien => simp; ring
    all_goals simp
  simp only [targetCount] at key
  simp only [key, Bool.and_eq_true, decide_eq_true_eq]
  have hien : [sel[7], sel[6]].count true ≤ 1 ↔ oneIenWriter sel = true := by
    unfold oneIenWriter
    cases sel[7] <;> cases sel[6] <;> simp
  rw [← hien]
  constructor
  · intro h
    exact ⟨by simpa using h .ien (by simp), by simpa using h .pc (by simp)⟩
  · rintro ⟨hi, hp⟩ x -
    split_ifs <;> first | assumption | omega

end Sys2Proof.Machine
end

