-- ==== Sys2Proof/Tests/Slice0.lean ====
section
/-! SUPPORT. The model's own tests: one step each, their expected values from spec/ (the vectors S and V of
95_test_vectors.md, and for decoding the bit layouts of R81-R83 and R86); and for every obligation with hypotheses a
witness that meets them. -/

namespace Sys2Proof.Tests

open Sys2Proof Sys2Proof.Machine

/-! ### Helpers -/

/-- The start state of the vectors (R273): everything 0, S = 1, PC = a, the word `w` there, the other cells listed. -/
def at_ (a : Addr) (w : Word) (cells : List (Nat × Word)) : State :=
  { State.reset with
    pc := a
    s := true
    startable := false
    mem := cells.foldl (fun m c => m.put c.1 ⟨c.2, [], []⟩) (Memory.put [] a.toNat ⟨w, [], []⟩) }

/-- What a test looks at in a next state; none after a fault or a refusal. -/
def view {α : Type} (o : Out) (f : State → α) : Option α :=
  match o with
  | .next t => some (f t)
  | .fault _ => none
  | .refused _ => none

/-- Does the outcome refuse for this reason. -/
def refusedFor (o : Out) (r : Refusal) : Bool :=
  match o with
  | .next _ => false
  | .fault _ => false
  | .refused q => decide (q = r)

/-- Does the outcome stop with this fault. -/
def faultsWith (o : Out) (f : Fault) : Bool :=
  match o with
  | .next _ => false
  | .fault g => decide (g = f)
  | .refused _ => false

/-- A word of memory as a number. -/
def word (t : State) (a : Nat) : Word := (t.mem.find a).value

/-- The host's actions performed one after another, while they succeed. -/
def performed : List HostAction → State → Out
  | [], s => .next s
  | a :: as, s =>
    match hostAct a s with
    | .next t => performed as t
    | .fault f => .fault f
    | .refused r => .refused r

/-- The assembler's parameters used by the tests; no test depends on them. -/
def options : Config.AsmOptions := ⟨true, false, false, fun w => w, true⟩

/-! ### Well-formedness: which words always run (R142, V7) -/

theorem test_wellFormed_refuses_two_ac_writers :
    (Instr.cla 0x200).wellFormed = false ∧ (Instr.cma 0x020).wellFormed = false := by decide

theorem test_wellFormed_refuses_two_e_writers :
    (Instr.cle 0x100).wellFormed = false ∧ (Instr.cle 0x080).wellFormed = false := by decide

theorem test_wellFormed_refuses_ion_with_iof : (Instr.ion 0x40).wellFormed = false := by decide

theorem test_wellFormed_accepts_separate_targets :
    (Instr.cla 0x400).wellFormed = true ∧ (Instr.inp 0x400).wellFormed = true ∧ (Instr.spa 0x4).wellFormed = true ∧
    (Instr.isz true 0xFFF).wellFormed = true ∧ Instr.nopRegister.wellFormed = true := by decide

/-! ### Decoding: words written out bit by bit from R81-R83 and R86 -/

theorem test_decode_memoryReference :
    decode 0b0000000000000101 = .and false 0x005 ∧ decode 0b1000001000000000 = .and true 0x200 ∧
    decode 0b0001001100000000 = .add false 0x300 ∧ decode 0b1001000000000001 = .add true 0x001 ∧
    decode 0b0010000100000001 = .lda false 0x101 ∧ decode 0b1010000100000001 = .lda true 0x101 ∧
    decode 0b0011010000000000 = .sta false 0x400 ∧ decode 0b1011111111111111 = .sta true 0xFFF ∧
    decode 0b0100000100100011 = .bun false 0x123 ∧ decode 0b1100000000000000 = .bun true 0x000 ∧
    decode 0b0101001100000000 = .bsa false 0x300 ∧ decode 0b1101000000100000 = .bsa true 0x020 ∧
    decode 0b0110001000000000 = .isz false 0x200 ∧ decode 0b1110100000000001 = .isz true 0x801 := by decide

theorem test_decode_registerReference :
    decode 0b0111100000000000 = .cla 0 ∧ decode 0b0111010000000000 = .cle 0 ∧ decode 0b0111001000000000 = .cma 0 ∧
    decode 0b0111000100000000 = .cme 0 ∧ decode 0b0111000010000000 = .cir 0 ∧ decode 0b0111000001000000 = .cil 0 ∧
    decode 0b0111000000100000 = .inc 0 ∧ decode 0b0111000000010000 = .spa 0 ∧ decode 0b0111000000001000 = .sna 0 ∧
    decode 0b0111000000000100 = .sza 0 ∧ decode 0b0111000000000010 = .sze 0 ∧ decode 0b0111000000000001 = .hlt ∧
    decode 0b0111000000000000 = .nopRegister ∧ decode 0b0111000000011000 = .spa 0b1000 := by decide

theorem test_decode_inputOutput :
    decode 0b1111100000000000 = .inp 0 ∧ decode 0b1111010000000000 = .out 0 ∧ decode 0b1111001000000000 = .ski 0 ∧
    decode 0b1111000100000000 = .sko 0 ∧ decode 0b1111000010000000 = .ion 0 ∧ decode 0b1111000001000000 = .iof 0 ∧
    decode 0b1111000000000000 = .nopIo 0 ∧ decode 0b1111000000111111 = .nopIo 0b111111 ∧
    decode 0b1111100000111111 = .inp 0b00000111111 := by decide

theorem test_decodeTableWord :
    decodeTableWord 16 0x7001 = some .hlt ∧ decodeTableWord 16 0xA101 = some (.lda true 0x101) ∧
    decodeTableWord 24 0x7001 = none ∧ decodeTableWord 16 0x10000 = none := by decide

theorem test_withFetchWord_runs_the_word :
    view (step (State.reset.withFetchWord 16 0x7020)) (fun t => (t.ac, t.pc, t.ir)) = some (1, 1, 0x7020) := by decide

/-! ### One step of each instruction -/

/-- V10. -/
theorem test_and :
    view (step { at_ 0x010 0x0200 [(0x200, 0xFF00)] with ac := 0xF0F0 })
      (fun t => (t.ac, t.dr, t.ar, t.pc, t.d)) = some (0xF000, 0xFF00, 0x200, 0x011, 0x01) := by decide

/-- V11. -/
theorem test_and_indirect :
    view (step { at_ 0x010 0x8200 [(0x200, 0xF300), (0x300, 0x0FF0)] with ac := 0xFFFF })
      (fun t => (t.ac, t.dr, t.ar, t.i, t.pc)) = some (0x0FF0, 0x0FF0, 0x300, true, 0x011) := by decide

/-- V12. -/
theorem test_add :
    view (step { at_ 0x010 0x1300 [(0x300, 0x0FCD)] with ac := 0x1234, e := true })
      (fun t => (t.ac, t.e, t.dr, t.ar, t.d)) = some (0x2201, false, 0x0FCD, 0x300, 0x02) := by decide

/-- V32. -/
theorem test_add_carry_out :
    view (step { at_ 0x010 0x1300 [(0x300, 0x8000)] with ac := 0x8000 })
      (fun t => (t.ac, t.e)) = some (0x0000, true) := by decide

/-- V14. -/
theorem test_lda_indirect :
    view (step (at_ 0x010 0xA200 [(0x200, 0x1234), (0x234, 0xCAFE)]))
      (fun t => (t.ar, t.dr, t.ac, t.i)) = some (0x234, 0xCAFE, 0xCAFE, true) := by decide

/-- V15. -/
theorem test_lda_own_word :
    view (step (at_ 0x010 0x2010 [])) (fun t => (t.ac, t.dr, t.ar)) = some (0x2010, 0x2010, 0x010) := by decide

/-- V16. -/
theorem test_sta :
    view (step { at_ 0x010 0x3400 [] with ac := 0xBEEF })
      (fun t => (word t 0x400, t.ar, t.ac, t.d)) = some (0xBEEF, 0x400, 0xBEEF, 0x08) := by decide

/-- V17. -/
theorem test_sta_indirect_ignores_high_bits :
    view (step { at_ 0x010 0xB400 [(0x400, 0x9ABC)] with ac := 0x1357 })
      (fun t => (word t 0xABC, t.ar, word t 0x400)) = some (0x1357, 0xABC, 0x9ABC) := by decide

/-- V18. -/
theorem test_bun :
    view (step (at_ 0x010 0x4123 [])) (fun t => (t.pc, t.ar, t.d)) = some (0x123, 0x123, 0x10) := by decide

/-- V19. -/
theorem test_bun_indirect :
    view (step (at_ 0x010 0xC000 [(0x000, 0x0057)]))
      (fun t => (t.pc, t.ar, t.i)) = some (0x057, 0x057, true) := by decide

/-- V21. -/
theorem test_bsa_wraps_its_target :
    view (step (at_ 0x100 0x5FFF [])) (fun t => (word t 0xFFF, t.pc, t.ar)) = some (0x0101, 0x000, 0x000) := by decide

/-- V22. -/
theorem test_bsa_wraps_its_return :
    view (step (at_ 0xFFF 0x5300 [(0x300, 0xAAAA)]))
      (fun t => (word t 0x300, t.pc)) = some (0x0000, 0x301) := by decide

/-- V24. -/
theorem test_isz_skips :
    view (step (at_ 0x050 0x6200 [(0x200, 0xFFFF)]))
      (fun t => (word t 0x200, t.dr, t.pc, t.d)) = some (0x0000, 0x0000, 0x052, 0x40) := by decide

/-- V28. -/
theorem test_isz_own_word :
    view (step (at_ 0x010 0x6010 []))
      (fun t => (word t 0x010, t.dr, t.pc, t.ir)) = some (0x6011, 0x6011, 0x011, 0x6010) := by decide

/-- V40. -/
theorem test_cla :
    view (step { at_ 0x010 0x7800 [] with ac := 0xABCD, e := true })
      (fun t => (t.ac, t.e, t.ar, t.d, t.i)) = some (0x0000, true, 0x800, 0x80, false) := by decide

/-- V71: SPA sees the old accumulator. -/
theorem test_cla_with_spa :
    view (step { at_ 0x010 0x7810 [] with ac := 0x8000 }) (fun t => (t.ac, t.pc)) = some (0x0000, 0x011) := by decide

/-- V41. -/
theorem test_cle :
    view (step { at_ 0x010 0x7400 [] with ac := 0xABCD, e := true })
      (fun t => (t.e, t.ac)) = some (false, 0xABCD) := by decide

/-- V70. -/
theorem test_cla_with_cle :
    view (step { at_ 0x010 0x7C00 [] with ac := 0xABCD, e := true })
      (fun t => (t.ac, t.e)) = some (0x0000, false) := by decide

/-- V42. -/
theorem test_cma :
    view (step { at_ 0x010 0x7200 [] with ac := 0x00FF }) (fun t => (t.ac, t.e)) = some (0xFF00, false) := by decide

/-- V44. -/
theorem test_cme :
    view (step (at_ 0x010 0x7100 [])) (fun t => (t.ac, t.e)) = some (0x0000, true) := by decide

/-- V45. -/
theorem test_cme_of_one :
    view (step { at_ 0x010 0x7100 [] with e := true }) (fun t => t.e) = some false := by decide

/-- V46. -/
theorem test_cir :
    view (step { at_ 0x010 0x7080 [] with ac := 0x8003 }) (fun t => (t.ac, t.e)) = some (0x4001, true) := by decide

/-- V48. -/
theorem test_cir_of_carry :
    view (step { at_ 0x010 0x7080 [] with e := true }) (fun t => (t.ac, t.e)) = some (0x8000, false) := by decide

/-- V49. -/
theorem test_cil :
    view (step { at_ 0x010 0x7040 [] with ac := 0xC001 }) (fun t => (t.ac, t.e)) = some (0x8002, true) := by decide

/-- V51. -/
theorem test_cil_of_carry :
    view (step { at_ 0x010 0x7040 [] with e := true }) (fun t => (t.ac, t.e)) = some (0x0001, false) := by decide

/-- V52. -/
theorem test_inc :
    view (step { at_ 0x010 0x7020 [] with ac := 0x00FF }) (fun t => t.ac) = some 0x0100 := by decide

/-- V53. -/
theorem test_inc_wraps_without_carry :
    view (step { at_ 0x010 0x7020 [] with ac := 0xFFFF }) (fun t => (t.ac, t.e)) = some (0x0000, false) := by decide

/-- V56. -/
theorem test_spa_of_zero :
    view (step (at_ 0x010 0x7010 [])) (fun t => t.pc) = some 0x012 := by decide

/-- V58. -/
theorem test_spa_of_negative :
    view (step { at_ 0x010 0x7010 [] with ac := 0x8000 }) (fun t => t.pc) = some 0x011 := by decide

/-- V59. -/
theorem test_sna_of_negative :
    view (step { at_ 0x010 0x7008 [] with ac := 0xFFFF }) (fun t => t.pc) = some 0x012 := by decide

/-- V61. -/
theorem test_sna_of_zero :
    view (step (at_ 0x010 0x7008 [])) (fun t => t.pc) = some 0x011 := by decide

/-- V68. -/
theorem test_sza_wraps :
    view (step (at_ 0xFFF 0x7004 [])) (fun t => t.pc) = some 0x001 := by decide

/-- V63. -/
theorem test_sza_of_one :
    view (step { at_ 0x010 0x7004 [] with ac := 1 }) (fun t => t.pc) = some 0x011 := by decide

/-- V64. -/
theorem test_sze :
    view (step (at_ 0x010 0x7002 [])) (fun t => t.pc) = some 0x012 := by decide

/-- V65. -/
theorem test_sze_of_one :
    view (step { at_ 0x010 0x7002 [] with e := true }) (fun t => t.pc) = some 0x011 := by decide

/-- V66. -/
theorem test_hlt :
    view (step (at_ 0x010 0x7001 [])) (fun t => (t.s, t.pc, t.ar, t.sc)) = some (false, 0x011, 0x001, 0) := by decide

/-- V97. -/
theorem test_hlt_with_a_pending_request :
    view (step { at_ 0x010 0x7001 [] with ien := true, fgo := true })
      (fun t => (t.s, t.r)) = some (false, true) := by decide

/-- V69. -/
theorem test_nopRegister :
    view (step { at_ 0x010 0x7000 [] with ac := 0x1234, e := true })
      (fun t => (t.pc, t.ar, t.ac, t.e)) = some (0x011, 0x000, 0x1234, true) := by decide

/-- V80. -/
theorem test_inp :
    view (step { at_ 0x010 0xF800 [] with ac := 0x1234, inpr := 0x41, fgi := true })
      (fun t => (t.ac, t.fgi, t.inpr, t.i)) = some (0x1241, false, 0x41, true) := by decide

/-- V92: the request is sampled before INP clears the flag. -/
theorem test_inp_with_request :
    view (step { at_ 0x010 0xF800 [] with inpr := 0x41, fgi := true, ien := true })
      (fun t => (t.ac, t.fgi, t.r)) = some (0x0041, false, true) := by decide

/-- V82. -/
theorem test_out :
    view (step { at_ 0x010 0xF400 [] with ac := 0x1241, fgo := true })
      (fun t => (t.outr, t.fgo, t.ac)) = some (0x41, false, 0x1241) := by decide

/-- V95: OUT sees the old accumulator. -/
theorem test_inp_with_out :
    view (step { at_ 0x010 0xFC00 [] with ac := 0x1234, inpr := 0x41, fgi := true, fgo := true })
      (fun t => (t.ac, t.outr, t.fgi, t.fgo)) = some (0x1241, 0x34, false, false) := by decide

/-- V84. -/
theorem test_ski :
    view (step { at_ 0x020 0xF200 [] with fgi := true }) (fun t => (t.pc, t.fgi)) = some (0x022, true) := by decide

/-- V85. -/
theorem test_ski_without_flag :
    view (step (at_ 0x020 0xF200 [])) (fun t => t.pc) = some 0x021 := by decide

/-- V86. -/
theorem test_sko :
    view (step { at_ 0x020 0xF100 [] with fgo := true }) (fun t => (t.pc, t.fgo)) = some (0x022, true) := by decide

/-- V87. -/
theorem test_sko_without_flag :
    view (step (at_ 0x020 0xF100 [])) (fun t => t.pc) = some 0x021 := by decide

/-- V89: the request reads the old IEN. -/
theorem test_ion :
    view (step { at_ 0x010 0xF080 [] with fgi := true })
      (fun t => (t.ien, t.r, t.ar)) = some (true, false, 0x080) := by decide

/-- V91: the request reads the old IEN. -/
theorem test_iof :
    view (step { at_ 0x010 0xF040 [] with fgi := true, ien := true })
      (fun t => (t.ien, t.r)) = some (false, true) := by decide

/-- V93. -/
theorem test_nopIo :
    view (step (at_ 0x010 0xF000 [])) (fun t => (t.pc, t.ar, t.i)) = some (0x011, 0x000, true) := by decide

/-- V2. -/
theorem test_fetch_wraps_at_the_top_of_memory :
    view (step (at_ 0xFFF 0x7800 [])) (fun t => (t.pc, t.ar, t.ir)) = some (0x000, 0x800, 0x7800) := by decide

/-! ### Write conflicts (V7), interrupts, the tick -/

/-- V7: two writers of AC, of E, of IEN; two skips whose tests both hold, and not when one holds. -/
theorem test_write_conflicts :
    refusedFor (step (at_ 0x010 0x7220 [])) .writeConflict = true ∧
    refusedFor (step (at_ 0x010 0x7480 [])) .writeConflict = true ∧
    refusedFor (step (at_ 0x010 0xF0C0 [])) .writeConflict = true ∧
    refusedFor (step (at_ 0x010 0x7014 [])) .writeConflict = true ∧
    view (step { at_ 0x010 0x7014 [] with ac := 5 }) (fun t => t.pc) = some 0x012 := by decide

/-- V100. -/
theorem test_interrupt_cycle :
    view (step { at_ 0x123 0 [] with r := true, ien := true, fgi := true })
      (fun t => ((t.pc, t.ar, t.tr, word t 0), t.r, t.ien, t.fgi)) =
    some ((0x001, 0x000, 0x0123, 0x0123), false, false, true) := by decide

/-- V101. -/
theorem test_interrupt_cycle_from_the_top :
    view (step { at_ 0xFFF 0 [(0, 0xAAAA)] with r := true, ac := 0x5555, e := true, fgo := true })
      (fun t => (word t 0, t.pc, t.tr, t.ac, t.e)) = some (0x0FFF, 0x001, 0x0FFF, 0x5555, true) := by decide

/-- V102, tick 5: LDA4 and IRQ in one batch. -/
theorem test_tick_samples_the_request :
    view (tick { at_ 0x010 0x2020 [(0x020, 0x00AA)] with
        pc := 0x011, ir := 0x2020, ar := 0x020, d := 0x04, sc := 4, ien := true, fgo := true })
      (fun t => (t.dr, t.r, t.sc)) = some (0x00AA, true, 5) := by decide

/-- V104, V105: no request while IEN = 0, and none at SC < 3. -/
theorem test_tick_without_request :
    view (tick { at_ 0x010 0x2020 [] with d := 0x04, sc := 4, fgo := true }) (fun t => t.r) = some false ∧
    view (tick { at_ 0x010 0x2020 [] with sc := 2, ien := true, fgi := true }) (fun t => t.r) = some false ∧
    view (tick { at_ 0x010 0x2020 [] with sc := 3, ien := true, fgi := true }) (fun t => t.r) = some true := by decide

/-- V4: the state of the SC overflow, its third and its fourth tick. -/
theorem test_sc_overflow :
    view (tick { at_ 0 0 [] with sc := 5 }) (fun t => t.sc) = some 6 ∧
    faultsWith (tick { at_ 0 0 [] with sc := 6 }) .scOverflow = true := by decide

/-- V5: the batch of BSA at T4, its values from the state before the tick. -/
theorem test_bsa_snapshot :
    batch { at_ 0x100 0x5300 [] with pc := 0x101, ar := 0x300, d := 0x20, sc := 4 } =
      [.write 0x300 0x0101, .setAr 0x301] := by decide

/-- V6: TickSplit of HLT at T3, and its two entries drained in either order. -/
theorem test_split_of_hlt :
    let s := { at_ 0 0x7001 [] with pc := 1, ir := 0x7001, ar := 1, d := 0x80, sc := 3 }
    view (tickSplit s) (fun t => (t.q.length, t.sc)) = some (2, 4) ∧
    view (performed [.tickSplit, .drain 0, .drain 0] s) (fun t => (t.s, t.sc, t.q)) = some (false, 0, []) ∧
    view (performed [.tickSplit, .drain 1, .drain 0] s) (fun t => (t.s, t.sc, t.q)) = some (false, 0, []) ∧
    refusedFor (performed [.tickSplit, .tick] s) .undrainedQueue = true := by decide

/-- V1: a machine that is not started stays as it is. -/
theorem test_halted : view (step { at_ 0 0x7001 [] with s := false }) (fun t => (t.pc, t.sc)) = some (0, 0) := by decide

/-! ### The host (S1, S5, S7, S10, V110-V112) -/

/-- The Program of S5. -/
def hltProgram : Program := ⟨0, [⟨0, 0x7001, [⟨1, 1, ['H', 'L', 'T']⟩]⟩], [], []⟩

/-- S1, R246: 4095 fits 12 bits, 4096 does not; a 12-bit register has no digit 12. -/
theorem test_register_width :
    (loadChecked 12 4095).toOption = some 0xFFF ∧ (loadChecked 12 4096).toOption = none ∧
    (readDigit (0x800 : Addr) 11).toOption = some true ∧ (readDigit (0x800 : Addr) 12).toOption = none := by decide

/-- V110, V111, V112: Load clears the machine and leaves S = 0; Start then sets it. -/
theorem test_load_then_start :
    view (load hltProgram { at_ 0x108 0x000F [] with ac := 0x000F })
      (fun t => (t.pc, t.ac, t.s, word t 0, word t 0x108)) = some (0, 0, false, 0x7001, 0) ∧
    view (performed [.load hltProgram, .start] State.reset) (fun t => (t.pc, t.s, word t 0)) =
      some (0, true, 0x7001) := by decide

/-- S5: exactly four ticks clear the run flag; a fifth changes nothing. -/
theorem test_load_start_and_tick :
    view (performed [.load hltProgram, .start, .tick, .tick, .tick] State.reset) (fun t => (t.s, t.sc)) = some (true, 3) ∧
    view (performed [.load hltProgram, .start, .tick, .tick, .tick, .tick, .tick] State.reset)
      (fun t => (t.pc, t.ar, t.ir, t.s, t.d, t.sc)) = some (1, 1, 0x7001, false, 0x80, 0) := by decide

/-- R272: Start once after a Load. -/
theorem test_start_twice :
    refusedFor (performed [.load hltProgram, .start, .start] State.reset) .startedAlready = true := by decide

/-- R252, R253: the input character and the output flag; 256 is out of range. -/
theorem test_devices :
    view (performed [.input 0x41, .outputReady] State.reset) (fun t => (t.inpr, t.fgi, t.fgo)) = some (0x41, true, true) ∧
    faultsWith (performed [.input 256] State.reset) .valueOutOfRange = true := by decide

/-- S7. -/
theorem test_breakpoints :
    ([0x0FF, 0x100, 0x1FF, 0x200, 0x201] : List Addr).map
      (fun a => (shouldBreak [] (.atPc 0x200) (at_ a 0 []), shouldBreak [] (.inRange 0x100 0x200) (at_ a 0 []),
        shouldBreak [] (.notInRange 0x100 0x200) (at_ a 0 []))) =
    [(false, false, true), (false, true, false), (false, true, false), (true, false, true), (false, false, true)] := by
  decide

/-- Vectors 2.8: after P3's BSA has overwritten the cell of the label DBL, its address is still the label's. -/
theorem test_breakpoint_on_an_overwritten_label :
    let labels : List Label := [⟨['V'], 0x104⟩, ⟨['R'], 0x105⟩, ⟨['D', 'B', 'L'], 0x106⟩]
    shouldBreak labels (.indirectLabel ['D', 'B', 'L'] none) (at_ 0x102 0 [(0x106, 0x0102)]) = true ∧
    shouldBreak labels (.indirectLabel ['D', 'B', 'L'] none) (at_ 0x104 0 [(0x106, 0x0102)]) = false ∧
    shouldBreak labels (.label ['V']) (at_ 0x104 0 [(0x106, 0x0102)]) = true ∧
    shouldBreak labels (.label ['D', 'B', 'L']) (at_ 0x104 0 [(0x106, 0x0102)]) = false := by decide

/-- S10: the digits of a word of the dump. -/
theorem test_dump_word : hexWord 0x2101 = ['2', '1', '0', '1'] ∧ hexWord 0xCAFE = ['C', 'A', 'F', 'E'] := by decide

/-! ### The assembler (S2, S3, S8, S9, V124-V132) -/

/-- Addresses and codes of a program. -/
def words (p : Program) : List (Nat × Nat) := p.instructions.map (fun w => (w.address, w.code))

/-- The program that a text assembles to. -/
def assembled (source : String) : Program := assemble options source.toList

/-- S2. -/
theorem test_assemble :
    words (assembled "ORG 100\nLDA X\nX, HEX 5\nEND") = [(0x100, 0x2101), (0x101, 0x0005)] ∧
    (assembled "ORG 100\nLDA X\nX, HEX 5\nEND").startAddress = 0x100 ∧
    (assembled "ORG 100\nLDA X\nX, HEX 5\nEND").labels = [⟨['X'], 0x101⟩] ∧
    (assembled "ORG 100\nLDA X\nX, HEX 5\nEND").errors = [] := by decide

/-- S8, S9. -/
theorem test_assemble_operands :
    words (assembled "LDA X I\nX, HEX 5") = [(0, 0xA001), (1, 5)] ∧
    words (assembled "DEC -23\nHEX 10\nDEC 10") = [(0, 0xFFE9), (1, 0x0010), (2, 0x000A)] := by decide

/-- V125 to V128, V130, V131: the category of the first error. -/
theorem test_assemble_errors :
    ["X, CLA\nX, CMA\nEND", "LDA Y\nEND", "START 10\nSTART 20\nEND", "CLA\nEND\nCMA", "LDA\nEND", "FOO\nEND"].map
      (fun t => (assembled t).errors.map AsmError.kind) =
    [[.duplicateLabel], [.unresolvedLabel], [.duplicateStart], [.trailingContent], [.missingArgument],
      [.unrecognizedToken]] := by decide

/-- V129, V132, and V124: a Program with two words at one address is not loaded. -/
theorem test_assemble_addresses :
    (assembled "ORG 1000\nEND").errors.map AsmError.kind = [.invalidAddressLiteral] ∧
    (assembled "ORG FFF\nCLA\nCMA\nEND").errors.map AsmError.kind = [.addressOverflow] ∧
    words (assembled "ORG FFF\nCLA\nCMA\nEND") = [(0xFFF, 0x7800), (0, 0x7200)] ∧
    refusedFor (load (assembled "ORG 10\nCLA\nORG 10\nCMA\nEND") State.reset) .faultyProgram = true := by decide

/-- R96: a second START is an error whatever argument either of them has. -/
theorem test_assemble_second_start :
    ["START 10\nSTART ZZZ\nEND", "START 1000\nSTART 20\nEND", "START\nSTART 20\nEND"].map
      (fun t => (assembled t).errors.map AsmError.kind) =
    [[.duplicateStart, .invalidAddressLiteral], [.invalidAddressLiteral, .duplicateStart],
      [.missingArgument, .duplicateStart]] := by decide

/-- S3, R105: a merge with words at one address reports them and conflicts; a disjoint one does neither. -/
theorem test_programUnion :
    let p := assembled "ORG 100\nLDA X\nX, HEX 5\nEND"
    let q := assembled "ORG 200\nCLA\nEND"
    programConflicts (programUnion p p) = true ∧
    (programUnion p p).errors = [⟨.addressConflict, 2, 1⟩, ⟨.addressConflict, 3, 4⟩] ∧
    programConflicts (programUnion p q) = false ∧ (programUnion p q).errors = [] := by decide

/-! ### Witnesses: the hypotheses of the obligations are met -/

/-- A running machine at 0x010 about to run `w`, with both device flags set and interrupts enabled. -/
def ready (w : Word) : State := { at_ 0x010 w [] with ien := true, fgi := true, fgo := true }

theorem witness_StepRunsTheDecodedInstruction :
    (at_ 0x010 0x7020 []).AtFetch ∧ decode ((at_ 0x010 0x7020 []).readWord (at_ 0x010 0x7020 []).pc) = .inc 0 := by
  decide

theorem witness_HaltedMachineStays : State.reset.q = [] ∧ State.reset.s = false ∧ State.reset.host = [] := by decide

theorem witness_InterruptCycleEntersTheHandler :
    State.AtCycleStart { at_ 0xFFF 0 [(0, 0xAAAA)] with r := true } ∧
    ({ at_ 0xFFF 0 [(0, 0xAAAA)] with r := true } : State).r = true := by decide

theorem witness_IndirectBranchReturnsFromInterrupt :
    let s := { at_ 0x123 0 [] with r := true }
    (interruptCycle s).readWord 0 = (interruptCycle s).readWord 0 ∧ s.pc ≠ 0 := by decide

theorem witness_StoreIntoTheNextWordIsFetched :
    let s := { at_ 0xFFF 0x3000 [] with ac := 0x7020 }
    s.AtFetch ∧ decode (s.readWord s.pc) = .sta false (s.pc + 1) ∧ (s.ien && (s.fgi || s.fgo)) = false ∧
      ∃ t, step s = .next t :=
  ⟨by decide, by decide, by decide, _, rfl⟩

theorem witness_FetchAndDecodeTicks :
    ([0, 1, 2] : List (Fin 7)).all (fun k =>
      let s := { ready 0xA101 with sc := k }
      s.q == [] && s.s && !s.r && s.sc == k) = true := by decide

/-- One word that completes, one that is a write conflict. -/
theorem witness_TicksOfACycleAreTheInstruction :
    (ready 0x6010).AtFetch ∧ (ready 0x7220).AtFetch ∧
    completes (decode ((ready 0x6010).readWord (ready 0x6010).pc)) (ready 0x6010) = true ∧
    completes (decode ((ready 0x7220).readWord (ready 0x7220).pc)) (ready 0x7220) = false := by decide

theorem witness_TicksOfTheInterruptCycle :
    State.AtCycleStart { ready 0 with r := true } ∧ ({ ready 0 with r := true } : State).r = true := by decide

/-- Each of the four tick counts (R285). -/
theorem witness_TickCounts :
    ([0x7001, 0x4123, 0xA101, 0x6010] : List Word).map (fun w =>
      (decide (ready w).AtFetch, completes (decode ((ready w).readWord (ready w).pc)) (ready w),
        cycleTicks (decode w))) = [(true, true, 4), (true, true, 5), (true, true, 6), (true, true, 7)] := by decide

theorem witness_BatchOrderIsIrrelevant :
    (ready 0).mem.wf = true ∧ conflictFree [.write 0x300 0x0101, .setAr 0x301] = true ∧
    [MicroOp.write 0x300 0x0101, .setAr 0x301].Perm [.setAr 0x301, .write 0x300 0x0101] :=
  ⟨by decide, by decide, .swap _ _ _⟩

theorem witness_ScPastSixIsAContractViolation :
    let s := { at_ 0 0 [] with sc := 6 }
    s.q = [] ∧ s.s = true ∧ s.sc = 6 ∧ conflictFree (batch s) = true ∧ MicroOp.clearSc ∉ batch s := by decide

/-- A state between the ticks of an ISZ, and one with micro-operations queued that the host drains. -/
theorem witness_EveryStepKeepsTheInvariant :
    let s := { ready 0x6010 with pc := 0x011, ir := 0x6010, ar := 0x010, d := 0x40, sc := 6, dr := 0x6011 }
    let u := { s with q := [.write 0x010 0x6011, .clearSc], host := [.drain 1] }
    (s.Inv ∧ ∃ t, step s = .next t) ∧ (u.Inv ∧ ∃ t, step u = .next t) :=
  ⟨⟨by decide, _, rfl⟩, ⟨by decide, _, rfl⟩⟩

theorem witness_NoProgramCausesAFault :
    let s := { ready 0x6010 with pc := 0x011, ir := 0x6010, ar := 0x010, d := 0x40, sc := 6, dr := 0x6011 }
    s.Inv ∧ s.host = [] := by decide

theorem witness_ClaClearsTheAccumulator :
    completes (.cla 0) (ready 0) = true ∧
    completes (.cla 0x400) (ready 0) = true := by decide

theorem witness_CleAndCmeWriteCarry :
    completes (.cle 0x200) (ready 0) = true ∧
    completes (.cme 0x020) (ready 0) = true := by decide

theorem witness_CmaComplementsTheAccumulator :
    completes (.cma 0) (ready 0) = true ∧
    completes (.cma 0x100) (ready 0) = true := by decide

theorem witness_CirAndCilRotateThroughCarry :
    completes (.cir 0x01) (ready 0) = true ∧
    completes (.cil 0x01) (ready 0) = true := by decide

theorem witness_IncIncrementsTheAccumulator :
    completes (.inc 0) (ready 0) = true ∧
    completes (.inc 0x10) (ready 0) = true := by decide

/-- Skips taken, and further bits whose own test fails. -/
theorem witness_SpaAndSnaSkipOnTheSign :
    completes (.spa 0x8) (ready 0) = true ∧ (ready 0).ac[15] = false ∧
    completes (.sna 0x4) ({ ready 0 with ac := 0x8000 }) = true ∧ (0x8000 : Word)[15] = true := by decide

theorem witness_SzaAndSzeSkipOnZero :
    completes (.sza 0x2) ({ ready 0 with e := true }) = true ∧ (ready 0).ac = 0 ∧
    completes (.sze 0x1) (ready 0) = true ∧ (ready 0).e = false := by decide

/-- Halting words, HLT itself and CLA with HLT, and one that does not halt. -/
theorem witness_HltClearsTheRunFlag :
    (ready 0).s = true ∧ (∃ t, exec .hlt (ready 0) = .next t) ∧ (∃ t, exec (.cla 1) (ready 0) = .next t ∧ t.s = false) ∧
    (∃ t, exec (.cla 0) (ready 0) = .next t ∧ t.s = true) :=
  ⟨rfl, ⟨_, rfl⟩, ⟨_, rfl, rfl⟩, ⟨_, rfl, rfl⟩⟩

theorem witness_InpTakesTheInputCharacter :
    completes (.inp 0) (ready 0) = true ∧
    completes (.inp 0x43F) (ready 0) = true := by decide

theorem witness_OutPresentsTheOutputCharacter :
    completes (.out 0) (ready 0) = true ∧
    completes (.out 0x23F) (ready 0) = true := by decide

theorem witness_SkiAndSkoSkipOnTheFlags :
    completes (.ski 0x100) ({ ready 0 with fgo := false }) = true ∧ (ready 0).fgi = true ∧
    completes (.sko 0x03F) (ready 0) = true ∧ (ready 0).fgo = true := by decide

theorem witness_IonAndIofWriteInterruptEnable :
    completes (.ion 0x3F) (ready 0) = true ∧
    completes (.iof 0x3F) (ready 0) = true := by decide

/-- Canonical, combined and empty words, at skips taken and not taken. -/
theorem witness_RegisterWordEffect :
    (Instr.cla 0x410).family = .registerReference ∧
    completes (.cla 0x410) (ready 0) = true ∧
    completes (.cma 0x100) (ready 0) = true ∧
    completes (.cir 0x3) (ready 0) = true ∧
    completes (.cil 0x10) ({ ready 0 with ac := 0x8000 }) = true ∧
    completes (.inc 0x01) (ready 0) = true ∧
    completes (.hlt) (ready 0) = true ∧
    completes (.nopRegister) (ready 0) = true := by decide

theorem witness_InputOutputWordEffect :
    (Instr.inp 0x600).family = .inputOutput ∧
    completes (.inp 0x600) (ready 0) = true ∧
    completes (.sko 0x80) (ready 0) = true ∧
    completes (.iof 0) (ready 0) = true ∧
    completes (.nopIo 0x3F) (ready 0) = true := by decide

/-- A conflict by the word, one by the data, and neither. -/
theorem witness_WriteConflictsAreRefused :
    completes (.cla 0x200) (ready 0) = false ∧ completes (.spa 0x4) (ready 0) = false ∧
    completes (.ski 0x100) (ready 0) = false ∧ completes (.spa 0x4) { ready 0 with ac := 5 } = true := by decide

/-- For each clause a word without the bits it names. -/
theorem witness_RegisterReferenceFrame :
    (Instr.cle 0x004).family = .registerReference ∧ (∃ t, exec (.cle 0x004) (ready 0) = .next t) ∧
    ((Instr.cle 0x004).low12 &&& 0xAE1 = 0) ∧
    (Instr.inc 0).family = .registerReference ∧ (∃ t, exec (.inc 0) (ready 0) = .next t) ∧
    ((Instr.inc 0).low12 &&& 0x5C1 = 0) :=
  ⟨rfl, ⟨_, rfl⟩, by decide, rfl, ⟨_, rfl⟩, by decide⟩

theorem witness_InputOutputFrame :
    (Instr.out 0).family = .inputOutput ∧ (∃ t, exec (.out 0) (ready 0) = .next t) ∧ ((Instr.out 0).low12 &&& 0x8C0 = 0) ∧
    (Instr.inp 0).family = .inputOutput ∧ (∃ t, exec (.inp 0) (ready 0) = .next t) ∧ ((Instr.inp 0).low12 &&& 0x4C0 = 0) :=
  ⟨rfl, ⟨_, rfl⟩, by decide, rfl, ⟨_, rfl⟩, by decide⟩

theorem witness_LoadingInstructionsFrame :
    (∃ t, exec (.and true 0x200) (ready 0) = .next t) ∧ (∃ t, exec (.add false 0xFFF) (ready 0) = .next t) ∧
    (∃ t, exec (.lda true 0x010) (ready 0) = .next t) ∧ (∃ t, exec (.bun false 0x123) (ready 0) = .next t) :=
  ⟨⟨_, rfl⟩, ⟨_, rfl⟩, ⟨_, rfl⟩, ⟨_, rfl⟩⟩

/-- The last cell and, by indirection, the first are stored to; another address is not. -/
theorem witness_StoringInstructionsFrame :
    (∃ t, exec (.sta false 0xFFF) (ready 0) = .next t) ∧ (∃ t, exec (.bsa true 0x200) (ready 0) = .next t) ∧
    (∃ t, exec (.isz false 0x200) (ready 0) = .next t) ∧
    0 ≠ (effectiveAddress (ready 0) false 0xFFF).toNat ∧ 0xFFF ≠ (effectiveAddress (ready 0) true 0x200).toNat :=
  ⟨⟨_, rfl⟩, ⟨_, rfl⟩, ⟨_, rfl⟩, by decide, by decide⟩

/-- A next state, with the request raised and with none. -/
theorem witness_EveryInstructionSamplesTheRequest :
    (∃ t, exec (.iof 0) (ready 0) = .next t ∧ t.r = true) ∧
    (∃ t, exec (.iof 0) (at_ 0x010 0 []) = .next t ∧ t.r = false) :=
  ⟨⟨_, rfl, rfl⟩, ⟨_, rfl, rfl⟩⟩

/-- E changed by each of the five. -/
theorem witness_OnlyFiveInstructionsWriteCarry :
    (∃ t, exec (.add false 0) { ready 0 with e := true } = .next t ∧ t.e ≠ true) ∧
    (∃ t, exec (.cle 0) { ready 0 with e := true } = .next t ∧ t.e ≠ true) ∧
    (∃ t, exec (.cme 0) (ready 0) = .next t ∧ t.e ≠ false) ∧
    (∃ t, exec (.cir 0) { ready 0 with ac := 1 } = .next t ∧ t.e ≠ false) ∧
    (∃ t, exec (.cil 0) { ready 0 with ac := 0x8000 } = .next t ∧ t.e ≠ false) :=
  ⟨⟨_, rfl, by decide⟩, ⟨_, rfl, by decide⟩, ⟨_, rfl, by decide⟩, ⟨_, rfl, by decide⟩, ⟨_, rfl, by decide⟩⟩

/-- IEN from 0 to 1, from 1 to 0, and the flags still set after an instruction. -/
theorem witness_OnlyIonEnablesInterrupts :
    (∃ t, exec (.ion 0) (at_ 0x010 0 []) = .next t ∧ t.ien = true) ∧
    (∃ t, exec (.iof 0) (ready 0) = .next t ∧ t.ien = false ∧ t.fgi = true ∧ t.fgo = true) :=
  ⟨⟨_, rfl, rfl⟩, ⟨_, rfl, rfl, rfl, rfl⟩⟩

theorem witness_InstructionsLeaveOtherUnitsAlone : ∃ t, exec (.bsa false 0x300) (ready 0) = .next t := ⟨_, rfl⟩

theorem witness_EveryCycleEndsDecoded :
    (∃ t, exec (.isz true 0x010) (ready 0) = .next t) ∧ (∃ t, exec (.inp 0) (ready 0) = .next t) ∧
    (Instr.inp 0).family ≠ .memoryReference :=
  ⟨⟨_, rfl⟩, ⟨_, rfl⟩, by decide⟩

/-- The bounds of an input character. -/
theorem witness_InputAndOutputReadySetTheirFlags : (ready 0).q = [] ∧ 255 < 256 ∧ 256 ≤ 256 := by decide

theorem witness_StartSetsOnlyTheRunFlagOnce :
    State.reset.q = [] ∧ State.reset.startable = true ∧ ∃ t, hostAct .start State.reset = .next t :=
  ⟨rfl, rfl, _, rfl⟩

/-- A Program of one word at the last address. -/
theorem witness_LoadResetsAndPlacesTheProgram :
    let p : Program := ⟨0xFFF, [⟨0xFFF, 0xFFFF, []⟩], [], []⟩
    programInRange p = true ∧ p.errors = [] ∧ programConflicts p = false := by decide

/-- An address out of range, an error, and two words at one address. -/
theorem witness_FaultyProgramsAreNotLoaded :
    programInRange ⟨0, [⟨0x1000, 0, []⟩], [], []⟩ = false ∧
    (programInRange ⟨0, [], [], [⟨.missingArgument, 1, 1⟩]⟩ = true ∧
      [AsmError.mk .missingArgument 1 1] ≠ []) ∧
    (programInRange ⟨0, [⟨1, 0, []⟩, ⟨2, 0, []⟩, ⟨1, 5, []⟩], [], []⟩ = true ∧
      [Emitted.mk 1 0 [], ⟨2, 0, []⟩, ⟨1, 5, []⟩] = [] ++ Emitted.mk 1 0 [] :: [⟨2, 0, []⟩] ++ ⟨1, 5, []⟩ :: []) := by
  decide

/-- The lower bound is in the range, the upper one not. -/
theorem witness_BreakpointRangesAreHalfOpen :
    shouldBreak [] (.inRange 0x100 0x101) (at_ 0x100 0 []) = true ∧
    shouldBreak [] (.inRange 0x100 0x101) (at_ 0x101 0 []) = false := by decide

end Sys2Proof.Tests
end

section
/-! PROOFS. What every instruction that completes leaves unchanged, and where new flag values come from (R27-R35). -/

namespace Sys2Proof.Machine

/-! ### What an instruction that completes has done -/

/-- A register-reference instruction that completes: its batch applied to the fetched state, SC cleared, the request
raised (R180, R232). -/
theorem exec_register_next {i : Instr} (hf : i.family = .registerReference) {s t : State} (h : exec i s = .next t) :
    t = { applyAll (registerOps i.low12 (s.fetched (encode i))) (s.fetched (encode i)) with
          sc := 0, r := s.r || s.requests } := by
  rw [exec_register hf] at h
  exact (executeT3_next h).2

/-- An input-output instruction that completes (R210, R232). -/
theorem exec_io_next {i : Instr} (hf : i.family = .inputOutput) {s t : State} (h : exec i s = .next t) :
    t = { applyAll (ioOps i.low12 (s.fetched (encode i))) (s.fetched (encode i)) with
          sc := 0, r := s.r || s.requests } := by
  rw [exec_io hf] at h
  exact (executeT3_next h).2

/-- No instruction writes TR, INPR, Q or the model's own fields (R27, R28). -/
theorem exec_frame {i : Instr} {s t : State} (h : exec i s = .next t) :
    t.tr = s.tr ∧ t.inpr = s.inpr ∧ t.q = s.q ∧ t.startable = s.startable ∧ t.host = s.host := by
  cases hf : i.family with
  | memoryReference =>
    cases i <;> simp [Instr.family] at hf <;> obtain rfl := Host.Outcome.next.inj h <;>
      exact ⟨rfl, rfl, rfl, rfl, rfl⟩
  | registerReference =>
    obtain rfl := exec_register_next hf h
    refine ⟨?_, by simp, by simp, by simp, by simp⟩
    exact applyAll_tr (fun op hop => by rcases registerOps_target hop with h | h | h | h <;> simp [h]) _
  | inputOutput =>
    obtain rfl := exec_io_next hf h
    refine ⟨?_, by simp, by simp, by simp, by simp⟩
    exact applyAll_tr (fun op hop => by rcases ioOps_target hop with h | h | h | h | h | h <;> simp [h]) _

/-- Every instruction ends at a cycle boundary (R146). -/
theorem exec_sc {i : Instr} {s t : State} (h : exec i s = .next t) : t.sc = 0 := by
  cases hf : i.family with
  | memoryReference => cases i <;> simp [Instr.family] at hf <;> obtain rfl := Host.Outcome.next.inj h <;> rfl
  | registerReference => rw [exec_register_next hf h]
  | inputOutput => rw [exec_io_next hf h]

/-! ### Where a flag's new value comes from -/

/-- If a micro-operation either keeps a field or is the one that writes it, the field after a batch is the old one or
the value of a micro-operation in it (R127). -/
theorem applyAll_field_or {α : Type} {f : State → α} {mk : α → MicroOp}
    (hop : ∀ op s, f (op.apply s) = f s ∨ op = mk (f (op.apply s))) (ops : List MicroOp) (s : State) :
    f (applyAll ops s) = f s ∨ mk (f (applyAll ops s)) ∈ ops := by
  induction ops generalizing s with
  | nil => exact .inl rfl
  | cons op ops ih =>
    rw [applyAll_cons]
    rcases ih (op.apply s) with h | h
    · rw [h]
      exact (hop op s).imp_right fun h => List.mem_cons.2 (.inl h.symm)
    · exact .inr (List.mem_cons_of_mem _ h)

theorem applyAll_e_or (ops : List MicroOp) (s : State) :
    (applyAll ops s).e = s.e ∨ .setE (applyAll ops s).e ∈ ops :=
  applyAll_field_or (fun op _ => by cases op <;> first | exact .inl rfl | exact .inr rfl) ops s

theorem applyAll_ien_or (ops : List MicroOp) (s : State) :
    (applyAll ops s).ien = s.ien ∨ .setIen (applyAll ops s).ien ∈ ops :=
  applyAll_field_or (fun op _ => by cases op <;> first | exact .inl rfl | exact .inr rfl) ops s

theorem applyAll_fgi_or (ops : List MicroOp) (s : State) :
    (applyAll ops s).fgi = s.fgi ∨ .setFgi (applyAll ops s).fgi ∈ ops :=
  applyAll_field_or (fun op _ => by cases op <;> first | exact .inl rfl | exact .inr rfl) ops s

theorem applyAll_fgo_or (ops : List MicroOp) (s : State) :
    (applyAll ops s).fgo = s.fgo ∨ .setFgo (applyAll ops s).fgo ∈ ops :=
  applyAll_field_or (fun op _ => by cases op <;> first | exact .inl rfl | exact .inr rfl) ops s

/-- E is written under the selectors of CLE, CME, CIR and CIL only (R182, R184-R186). -/
theorem selector_of_setE_mem {sel : BitVec 12} {t : State} {v : Bool} (h : .setE v ∈ registerOps sel t) :
    sel[10] = true ∨ sel[8] = true ∨ sel[7] = true ∨ sel[6] = true := by
  simp [registerOps, claOps, cleOps, cmaOps, cmeOps, cirOps, cilOps, incOps, spaOps, snaOps, szaOps, szeOps,
    hltOps] at h
  tauto

/-- IEN is set under ION's selector and cleared under IOF's (R215, R216). -/
theorem setIen_mem_ioOps {sel : BitVec 12} {t : State} {v : Bool} :
    .setIen v ∈ ioOps sel t ↔ sel[7] = true ∧ v = true ∨ sel[6] = true ∧ v = false := by
  simp [ioOps, inpOps, outOps, skiOps, skoOps, ionOps, iofOps]

/-- FGI is only ever cleared, under INP's selector (R211). -/
theorem setFgi_mem_ioOps {sel : BitVec 12} {t : State} {v : Bool} :
    .setFgi v ∈ ioOps sel t ↔ sel[11] = true ∧ v = false := by
  simp [ioOps, inpOps, outOps, skiOps, skoOps, ionOps, iofOps]

/-- FGO is only ever cleared, under OUT's selector (R212). -/
theorem setFgo_mem_ioOps {sel : BitVec 12} {t : State} {v : Bool} :
    .setFgo v ∈ ioOps sel t ↔ sel[10] = true ∧ v = false := by
  simp [ioOps, inpOps, outOps, skiOps, skoOps, ionOps, iofOps]

/-- Only input-output instructions touch IEN, FGI and FGO (R160, R180). -/
theorem exec_flags_of_not_io {i : Instr} (hf : i.family ≠ .inputOutput) {s t : State} (h : exec i s = .next t) :
    t.ien = s.ien ∧ t.fgi = s.fgi ∧ t.fgo = s.fgo := by
  cases hf' : i.family with
  | memoryReference =>
    cases i <;> simp [Instr.family] at hf' <;> obtain rfl := Host.Outcome.next.inj h <;> exact ⟨rfl, rfl, rfl⟩
  | registerReference =>
    obtain rfl := exec_register_next hf' h
    have keep : ∀ x, x ≠ .ac → x ≠ .e → x ≠ .pc → x ≠ .s →
        ∀ op ∈ registerOps i.low12 (s.fetched (encode i)), op.target ≠ x := by
      intro x hac he hpc hs op hop
      rcases registerOps_target hop with h | h | h | h <;> rw [h] <;> exact Ne.symm ‹_›
    exact ⟨applyAll_ien (keep .ien nofun nofun nofun nofun) _, applyAll_fgi (keep .fgi nofun nofun nofun nofun) _,
      applyAll_fgo (keep .fgo nofun nofun nofun nofun) _⟩
  | inputOutput => exact absurd hf' hf

/-- Settles O53: `exec_frame`. -/
theorem instructionsLeaveOtherUnitsAlone : Obligations.InstructionsLeaveOtherUnitsAlone :=
  fun _ _ _ h => exec_frame h

/-- Settles O51, by family: of the memory-reference instructions only ADD writes E, of the batches only those of
register-reference words hold a write of E. -/
theorem onlyFiveInstructionsWriteCarry : Obligations.OnlyFiveInstructionsWriteCarry := by
  intro i s t h hne
  cases hf : i.family with
  | memoryReference =>
    cases i <;> simp [Instr.family] at hf <;> obtain rfl := Host.Outcome.next.inj h
    case add ind a => exact .inl ⟨ind, a, rfl⟩
    all_goals exact absurd rfl hne
  | registerReference =>
    obtain rfl := exec_register_next hf h
    exact .inr ⟨rfl, selector_of_setE_mem ((applyAll_e_or _ _).resolve_left hne)⟩
  | inputOutput =>
    obtain rfl := exec_io_next hf h
    refine absurd (applyAll_e (fun op hop => ?_) _) hne
    rcases ioOps_target hop with h | h | h | h | h | h <;> simp [h]

/-- An input-output instruction keeps IEN, or sets it under ION's selector or clears it under IOF's; it keeps or clears
FGI and FGO (R211, R212, R215, R216). -/
theorem exec_io_flags {i : Instr} (hf : i.family = .inputOutput) {s t : State} (h : exec i s = .next t) :
    (t.ien = s.ien ∨ i.low12[7] = true ∧ t.ien = true ∨ i.low12[6] = true ∧ t.ien = false) ∧
      (t.fgi = s.fgi ∨ t.fgi = false) ∧ (t.fgo = s.fgo ∨ t.fgo = false) := by
  obtain rfl := exec_io_next hf h
  exact ⟨(applyAll_ien_or _ _).imp_right setIen_mem_ioOps.1,
    (applyAll_fgi_or _ _).imp_right fun h => (setFgi_mem_ioOps.1 h).2,
    (applyAll_fgo_or _ _).imp_right fun h => (setFgo_mem_ioOps.1 h).2⟩

/-- Settles O52: only input-output instructions touch the three flags (`exec_flags_of_not_io`), in the ways
`exec_io_flags` lists. -/
theorem onlyIonEnablesInterrupts : Obligations.OnlyIonEnablesInterrupts := by
  intro i s t h
  by_cases hf : i.family = .inputOutput
  · obtain ⟨hien, hfgi, hfgo⟩ := exec_io_flags hf h
    refine ⟨fun h0 h1 => ⟨hf, ?_⟩, fun h1 h0 => ⟨hf, ?_⟩, fun h1 => ?_, fun h1 => ?_⟩
    · simpa [h0, h1] using hien
    · simpa [h0, h1] using hien
    · exact hfgi.elim (fun h => h ▸ h1) fun h => absurd h1 (by simp [h])
    · exact hfgo.elim (fun h => h ▸ h1) fun h => absurd h1 (by simp [h])
  · obtain ⟨hien, hfgi, hfgo⟩ := exec_flags_of_not_io hf h
    simp +contextual [hien, hfgi, hfgo]

end Sys2Proof.Machine
end

section
/-! PROOFS. The invariant of reachable states holds at reset and every step keeps it (R41, R42): what is left of a batch
can be drained in any order (R127, R129), a split tick ends in the fused tick's state (R130), and each T-state hands the
next what R42 asks for. -/

namespace Sys2Proof.Machine

/-! ### Micro-operations commute (R127) -/

/-- Two micro-operations may change places: they have different targets, or are both `SC <- 0` (R128). -/
def MicroOp.Commutes (a b : MicroOp) : Prop := a.target = b.target → a.target = .sc

/-- Micro-operations that may change places do so without effect, on a canonical memory. -/
theorem apply_comm {a b : MicroOp} (hab : a.Commutes b) {s : State} (hs : s.mem.wf = true) :
    a.apply (b.apply s) = b.apply (a.apply s) := by
  cases a with
  | write x v =>
    cases b with
    | write y w =>
      have hxy : x ≠ y := fun h => Target.noConfusion (hab (congrArg Target.cell h))
      have hne : y.toNat ≠ x.toNat := fun h => hxy (BitVec.eq_of_toNat_eq h.symm)
      exact State.ext_fields rfl rfl rfl rfl rfl rfl rfl rfl rfl rfl rfl rfl rfl rfl rfl rfl rfl rfl
        (Memory.put_comm _ _ hs (addr_lt_memWords y) (addr_lt_memWords x) hne) rfl rfl
    | _ => rfl
  | clearSc => cases b <;> rfl
  | _ => cases b <;> first | rfl | exact Target.noConfusion (hab rfl)

/-- A micro-operation of a batch that commutes with those before it may be applied first. -/
theorem applyAll_move_front {op : MicroOp} {before : List MicroOp} (h : ∀ o ∈ before, o.Commutes op)
    (after : List MicroOp) {s : State} (hs : s.mem.wf = true) :
    applyAll (before ++ op :: after) s = applyAll (before ++ after) (op.apply s) := by
  induction before generalizing s with
  | nil => rfl
  | cons o before ih =>
    rw [List.cons_append, List.cons_append, applyAll_cons, applyAll_cons,
      ih (fun o' ho' => h o' (List.mem_cons_of_mem _ ho')) (apply_wf o hs), apply_comm (h o List.mem_cons_self) hs]

/-- What is left of a batch without a write conflict has none. -/
theorem conflictFree_of_sublist {a b : List MicroOp} (hab : a.Sublist b) (h : conflictFree b = true) :
    conflictFree a = true :=
  decide_eq_true ((of_decide_eq_true h).sublist ((hab.map _).filter _))

/-- In a batch without a write conflict a micro-operation commutes with those before it. -/
theorem commutes_of_conflictFree {op : MicroOp} {before after : List MicroOp}
    (h : conflictFree (before ++ op :: after) = true) : ∀ o ∈ before, o.Commutes op := by
  intro o ho heq
  by_contra hsc
  have hpair : [o, op].Sublist (before ++ op :: after) :=
    (List.singleton_sublist.2 ho).append (List.singleton_sublist.2 List.mem_cons_self)
  have hcf := conflictFree_of_sublist hpair h
  simp [conflictFree, targets, ← heq, hsc] at hcf

/-! ### Draining Q -/

theorem applyAll_setQ (ops qs : List MicroOp) (s : State) :
    applyAll ops { s with q := qs } = { applyAll ops s with q := qs } := by
  induction ops generalizing s with
  | nil => rfl
  | cons op ops ih => rw [applyAll_cons, applyAll_cons, ← ih]; cases op <;> rfl

theorem applyAll_setHost (ops : List MicroOp) (host : List HostAction) (s : State) :
    applyAll ops { s with host := host } = { applyAll ops s with host := host } := by
  induction ops generalizing s with
  | nil => rfl
  | cons op ops ih => rw [applyAll_cons, applyAll_cons, ← ih]; cases op <;> rfl

/-- SC after a batch: 0 if the batch clears it, else as before (R128). -/
theorem applyAll_setSc (ops : List MicroOp) (k : Fin 7) (s : State) :
    applyAll ops { s with sc := k } = { applyAll ops s with sc := if MicroOp.clearSc ∈ ops then 0 else k } := by
  induction ops generalizing s k with
  | nil => rfl
  | cons op ops ih =>
    by_cases hop : op = .clearSc
    · subst hop
      have h0 : applyAll ops { s with sc := 0 } = { applyAll ops s with sc := 0 } := by rw [ih 0 s, ite_self]
      simp [MicroOp.apply, h0]
    · have hset : op.apply { s with sc := k } = { op.apply s with sc := k } := by
        cases op <;> first | rfl | exact absurd rfl hop
      rw [applyAll_cons, applyAll_cons, hset, ih k (op.apply s)]
      simp [Ne.symm hop]

/-- With Q empty there is nothing to drain. -/
theorem drained_of_q_nil {s : State} (hq : s.q = []) : s.drained = s := by
  cases s
  subst hq
  rfl

@[simp] theorem drained_q (s : State) : s.drained.q = [] := rfl

theorem drained_setHost (host : List HostAction) (s : State) :
    { s with host := host }.drained = { s.drained with host := host } := by
  unfold State.drained
  rw [applyAll_setHost]

/-- A state with the batch `ops` queued, drained. -/
theorem drained_setQ (ops : List MicroOp) (s : State) :
    { s with q := ops }.drained = { applyAll ops s with q := [] } := by
  unfold State.drained
  rw [applyAll_setQ]

/-- If Drain answers a next state, that state. -/
theorem drain_next {k : Nat} {s t : State} (h : drain k s = .next t) :
    ∃ op, s.q[k]? = some op ∧ t = { op.apply s with q := s.q.eraseIdx k } := by
  unfold drain at h
  cases hop : s.q[k]? with
  | none => simp [hop] at h
  | some op => exact ⟨op, rfl, by simpa [hop] using h.symm⟩

/-- Draining one place of Q first makes no difference to the drained state (R129, R130). -/
theorem drained_of_drain {k : Nat} {s t : State} (hm : s.mem.wf = true) (hq : conflictFree s.q = true)
    (h : drain k s = .next t) : t.drained = s.drained := by
  obtain ⟨op, hop, rfl⟩ := drain_next h
  obtain ⟨hk, hget⟩ := List.getElem?_eq_some_iff.1 hop
  have hsplit : s.q = s.q.take k ++ op :: s.q.drop (k + 1) := by
    rw [← hget, List.getElem_cons_drop, List.take_append_drop]
  have hcomm := commutes_of_conflictFree (hsplit ▸ hq)
  rw [drained_setQ, List.eraseIdx_eq_take_drop_succ, ← applyAll_move_front hcomm _ hm, ← hsplit]
  rfl

/-! ### A split tick, drained, is the fused tick (R129, R130) -/

theorem tick_of_halted {s : State} (hq : s.q = []) (hs : s.s = false) : tick s = .next s := by
  simp [tick, hq, hs]

theorem tick_of_clear {s : State} (hq : s.q = []) (hs : s.s = true) (hc : conflictFree (batch s) = true)
    (hm : MicroOp.clearSc ∈ batch s) : tick s = .next { applyAll (batch s) s with sc := 0 } := by
  simp [tick, hq, hs, hc, hm]

theorem tick_of_advance {s : State} (hq : s.q = []) (hs : s.s = true) (hc : conflictFree (batch s) = true)
    (hm : MicroOp.clearSc ∉ batch s) {k : Fin 7} (hk : advanceSc s.sc = some k) :
    tick s = .next { applyAll (batch s) s with sc := k } := by
  simp [tick, hq, hs, hc, hm, hk]

/-- The state after a split tick, drained. -/
theorem drained_split {s : State} (hq : s.q = []) (k : Fin 7) :
    { s with q := batch s, sc := k }.drained =
      { applyAll (batch s) s with sc := if MicroOp.clearSc ∈ batch s then 0 else k } := by
  have hq' : (applyAll (batch s) s).q = [] := by rw [applyAll_q, hq]
  calc { s with q := batch s, sc := k }.drained
      = { applyAll (batch s) { s with sc := k } with q := [] } := drained_setQ (batch s) { s with sc := k }
    _ = { applyAll (batch s) s with sc := if MicroOp.clearSc ∈ batch s then 0 else k } := by
      rw [applyAll_setSc, ← hq']

theorem tick_of_tickSplit {s t : State} (h : tickSplit s = .next t) : tick s = .next t.drained := by
  obtain ⟨hq, ⟨hs, rfl⟩ | ⟨hs, hc, ⟨k, hk, rfl⟩ | ⟨h6, hm, rfl⟩⟩⟩ := tickSplit_next h
  · rw [drained_of_q_nil hq, tick_of_halted hq hs]
  · rw [drained_split hq]
    by_cases hm : MicroOp.clearSc ∈ batch s
    · rw [tick_of_clear hq hs hc hm, if_pos hm]
    · rw [tick_of_advance hq hs hc hm hk, if_neg hm]
  · rw [drained_split hq s.sc, tick_of_clear hq hs hc hm, if_pos hm]

/-! ### The boundary condition of R42, tick by tick -/

/-- At the start of a cycle R42 asks only that a machine that may be started is not running. -/
theorem boundary_of_sc_zero {s : State} (hsc : s.sc = 0) (hstart : s.startable = true → s.s = false ∧ s.r = false) :
    s.Boundary := by
  simpa [State.Boundary, hsc] using hstart

/-- A running machine has been started since the last Load (R272). -/
theorem startable_of_running {s : State} (hb : s.Boundary) (hs : s.s = true) : s.startable = false := by
  obtain ⟨-, -, -, -, -, -, hidle⟩ := hb
  cases h : s.startable with
  | false => rfl
  | true => exact absurd hs (by simp [(hidle h).1])

/-- D holds one of the eight classes (R133). -/
theorem onehot8_cases : ∀ k : BitVec 3, onehot8 k = 0x01 ∨ onehot8 k = 0x02 ∨ onehot8 k = 0x04 ∨ onehot8 k = 0x08 ∨
    onehot8 k = 0x10 ∨ onehot8 k = 0x20 ∨ onehot8 k = 0x40 ∨ onehot8 k = 0x80 := by
  decide

/-- Rule IRQ raises R and does nothing else (R232). -/
theorem applyAll_irqOps (s u : State) : applyAll (irqOps s) u = { u with r := u.r || s.requests } := by
  cases h : s.requests <;> simp [irqOps, h, MicroOp.apply]

/-- T3 of every memory-reference word (R134, R232). -/
theorem batch_memory_T3 {s : State} (hd : s.d = onehot8 (opClassOf s.ir)) (h7 : s.d ≠ 0x80) (h : s.sc = 3) :
    batch s = (if s.i then [.setAr (low12 (s.readWord s.ar))] else []) ++ irqOps s := by
  rcases hd ▸ onehot8_cases (opClassOf s.ir) with hd | hd | hd | hd | hd | hd | hd | hd
  · exact batch_and_T3 hd h
  · exact batch_add_T3 hd h
  · exact batch_lda_T3 hd h
  · exact batch_sta_T3 hd h
  · exact batch_bun_T3 hd h
  · exact batch_bsa_T3 hd h
  · exact batch_isz_T3 hd h
  · exact absurd hd h7

theorem boundary_after_T0 {s : State} (hstart : s.startable = false) (h : s.sc = 0) :
    { applyAll (batch s) s with sc := 1 }.Boundary := by
  cases hr : s.r with
  | false => simp [State.Boundary, batch_F0 hr h, MicroOp.apply, hstart, hr]
  | true => simp [State.Boundary, batch_INT0 hr h, MicroOp.apply, hstart, hr]

theorem boundary_after_T1 {s : State} (hb : s.Boundary) (hstart : s.startable = false) (h : s.sc = 1) :
    { applyAll (batch s) s with sc := 2 }.Boundary := by
  obtain ⟨-, -, -, -, har, -, -⟩ := hb
  cases hr : s.r with
  | false =>
    have hpc : s.ar = s.pc := by simpa [hr] using har h
    simp [State.Boundary, batch_F1 hr h, MicroOp.apply, State.readWord, hstart, hr, hpc]
  | true => simp [State.Boundary, batch_INT1 hr h, MicroOp.apply, hstart, hr]

theorem boundary_after_T2 {s : State} (hstart : s.startable = false) (h : s.sc = 2)
    (hm : MicroOp.clearSc ∉ batch s) : { applyAll (batch s) s with sc := 3 }.Boundary := by
  cases hr : s.r with
  | false => simp [State.Boundary, batch_DEC hr h, MicroOp.apply, hstart]
  | true => exact absurd (by simp [batch_INT2 hr h]) hm

/-- The words of class 7 end here; the others keep D, I and IR. -/
theorem boundary_after_T3 {s : State} (hb : s.Boundary) (hstart : s.startable = false) (h : s.sc = 3)
    (hm : MicroOp.clearSc ∉ batch s) : { applyAll (batch s) s with sc := 4 }.Boundary := by
  obtain ⟨hdec, -⟩ := hb
  obtain ⟨hd, hi⟩ := hdec h.ge
  have h7 : s.d ≠ 0x80 := by
    intro h7
    cases hi' : s.i with
    | false => exact hm (by simp [batch_register_T3 h7 hi' h])
    | true => exact hm (by simp [batch_io_T3 h7 hi' h])
  rw [batch_memory_T3 hd h7 h]
  cases hi' : s.i <;> simpa [State.Boundary, applyAll_irqOps, MicroOp.apply, hstart, ← hd, ← hi, hi'] using h7

/-- A tick that only reads or changes DR, beside IRQ, goes on in a class that has the next T-state. -/
theorem boundary_of_setDr {s : State} {v : Word} {k : Fin 7} (hbatch : batch s = irqOps s ++ [.setDr v])
    (hstart : s.startable = false) (hdec : s.d = onehot8 (opClassOf s.ir) ∧ s.i = indirectBitOf s.ir)
    (hclass : k = 5 ∧ (s.d = 0x01 ∨ s.d = 0x02 ∨ s.d = 0x04 ∨ s.d = 0x20 ∨ s.d = 0x40) ∨ k = 6 ∧ s.d = 0x40) :
    { applyAll (batch s) s with sc := k }.Boundary := by
  obtain ⟨hd, hi⟩ := hdec
  rcases hclass with ⟨rfl, h5⟩ | ⟨rfl, h6⟩
  · simpa [State.Boundary, hbatch, applyAll_append, applyAll_irqOps, MicroOp.apply, hstart, ← hd, ← hi] using h5
  · simpa [State.Boundary, hbatch, applyAll_append, applyAll_irqOps, MicroOp.apply, hstart, ← hd, ← hi] using h6

/-- STA and BUN end here; the other five classes keep D, I and IR. -/
theorem boundary_after_T4 {s : State} (hb : s.Boundary) (hstart : s.startable = false) (h : s.sc = 4)
    (hm : MicroOp.clearSc ∉ batch s) : { applyAll (batch s) s with sc := 5 }.Boundary := by
  obtain ⟨hdec, h7, -⟩ := hb
  obtain ⟨hd, hi⟩ := hdec (by simp [h])
  rcases hd ▸ onehot8_cases (opClassOf s.ir) with hk | hk | hk | hk | hk | hk | hk | hk
  · exact boundary_of_setDr (batch_and_T4 hk h) hstart ⟨hd, hi⟩ (by simp [hk])
  · exact boundary_of_setDr (batch_add_T4 hk h) hstart ⟨hd, hi⟩ (by simp [hk])
  · exact boundary_of_setDr (batch_lda_T4 hk h) hstart ⟨hd, hi⟩ (by simp [hk])
  · exact absurd (by simp [batch_sta_T4 hk h]) hm
  · exact absurd (by simp [batch_bun_T4 hk h]) hm
  · simp [State.Boundary, batch_bsa_T4 hk h, applyAll_append, applyAll_irqOps, MicroOp.apply, hstart, ← hd, ← hi, hk]
  · exact boundary_of_setDr (batch_isz_T4 hk h) hstart ⟨hd, hi⟩ (by simp [hk])
  · exact absurd hk (h7 h)

/-- Only ISZ goes on after T5. -/
theorem boundary_after_T5 {s : State} (hb : s.Boundary) (hstart : s.startable = false) (h : s.sc = 5)
    (hm : MicroOp.clearSc ∉ batch s) : { applyAll (batch s) s with sc := 6 }.Boundary := by
  obtain ⟨hdec, -, h5, -⟩ := hb
  obtain ⟨hd, hi⟩ := hdec (by simp [h])
  rcases h5 h with hk | hk | hk | hk | hk
  · exact absurd (by simp [batch_and_T5 hk h]) hm
  · exact absurd (by simp [batch_add_T5 hk h]) hm
  · exact absurd (by simp [batch_lda_T5 hk h]) hm
  · exact absurd (by simp [batch_bsa_T5 hk h]) hm
  · exact boundary_of_setDr (batch_isz_T5 hk h) hstart ⟨hd, hi⟩ (by simp [hk])

/-- Every tick keeps the condition of R42. -/
theorem tick_boundary {s t : State} (hb : s.Boundary) (h : tick s = .next t) : t.Boundary := by
  obtain ⟨-, ⟨-, rfl⟩ | ⟨hs, -, ⟨-, rfl⟩ | ⟨hm, k, hk, rfl⟩⟩⟩ := tick_next h
  · exact hb
  all_goals
    have hstart : s.startable = false := startable_of_running hb hs
  · exact boundary_of_sc_zero rfl (by simp [hstart])
  · have hval := advanceSc_some hk
    have hcases : s.sc = 0 ∧ k = 1 ∨ s.sc = 1 ∧ k = 2 ∨ s.sc = 2 ∧ k = 3 ∨ s.sc = 3 ∧ k = 4 ∨ s.sc = 4 ∧ k = 5 ∨
        s.sc = 5 ∧ k = 6 := by omega
    rcases hcases with ⟨hsc, rfl⟩ | ⟨hsc, rfl⟩ | ⟨hsc, rfl⟩ | ⟨hsc, rfl⟩ | ⟨hsc, rfl⟩ | ⟨hsc, rfl⟩
    · exact boundary_after_T0 hstart hsc
    · exact boundary_after_T1 hb hstart hsc
    · exact boundary_after_T2 hstart hsc hm
    · exact boundary_after_T3 hb hstart hsc hm
    · exact boundary_after_T4 hb hstart hsc hm
    · exact boundary_after_T5 hb hstart hsc hm

/-! ### The invariant -/

/-- With Q empty the invariant is canonical memory and the condition of R42. -/
theorem inv_iff_of_q_nil {s : State} (hq : s.q = []) : s.Inv ↔ s.mem.wf = true ∧ s.Boundary := by
  rw [State.Inv, drained_of_q_nil hq, hq]
  simp [conflictFree, targets]

/-- The invariant does not read the host's pending actions. -/
theorem inv_setHost (host : List HostAction) (s : State) : { s with host := host }.Inv ↔ s.Inv := by
  rw [State.Inv, drained_setHost]
  exact Iff.rfl

theorem drained_inv {s : State} (hi : s.Inv) : s.drained.Inv :=
  (inv_iff_of_q_nil rfl).2 ⟨applyAll_wf s.q hi.1, hi.2.2⟩

theorem tick_inv {s t : State} (hi : s.Inv) (h : tick s = .next t) : t.Inv := by
  have hq := (tick_next h).1
  have hqt : t.q = [] := by
    obtain ⟨-, ⟨-, rfl⟩ | ⟨-, -, ⟨-, rfl⟩ | ⟨-, k, -, rfl⟩⟩⟩ := tick_next h <;> simp [hq]
  obtain ⟨hm, hb⟩ := (inv_iff_of_q_nil hq).1 hi
  exact (inv_iff_of_q_nil hqt).2 ⟨tick_wf hm h, tick_boundary hb h⟩

theorem tickSplit_inv {s t : State} (hi : s.Inv) (h : tickSplit s = .next t) : t.Inv := by
  have hq := (tickSplit_next h).1
  obtain ⟨hm, hb⟩ := (inv_iff_of_q_nil hq).1 hi
  have hbt : t.drained.Boundary := tick_boundary hb (tick_of_tickSplit h)
  obtain ⟨-, ⟨-, rfl⟩ | ⟨-, hc, ⟨k, -, rfl⟩ | ⟨-, -, rfl⟩⟩⟩ := tickSplit_next h
  · exact hi
  · exact ⟨hm, hc, hbt⟩
  · exact ⟨hm, hc, hbt⟩

theorem drain_inv {k : Nat} {s t : State} (hi : s.Inv) (h : drain k s = .next t) : t.Inv := by
  obtain ⟨hm, hc, hb⟩ := hi
  rw [← drained_of_drain hm hc h] at hb
  obtain ⟨op, -, rfl⟩ := drain_next h
  exact ⟨apply_wf op hm, conflictFree_of_sublist (List.eraseIdx_sublist _ _) hc, hb⟩

theorem load_inv {p : Program} {s t : State} (h : load p s = .next t) : t.Inv := by
  unfold load at h
  split_ifs at h with hr
  obtain rfl := Host.Outcome.next.inj h
  exact (inv_iff_of_q_nil rfl).2 ⟨loadedMemory_wf (by simpa using hr), boundary_of_sc_zero rfl fun _ => ⟨rfl, rfl⟩⟩

/-- Start finds the machine at the start of a cycle (R272). -/
theorem start_inv {s t : State} (hi : s.Inv) (h : start s = .next t) : t.Inv := by
  unfold start at h
  split_ifs at h with hq hstart
  obtain rfl := Host.Outcome.next.inj h
  rw [not_not] at hq
  obtain ⟨hm, hb⟩ := (inv_iff_of_q_nil hq).1 hi
  obtain ⟨-, -, -, -, -, -, hidle⟩ := hb
  obtain ⟨-, hsc, -⟩ := hidle (by simpa using hstart)
  exact (inv_iff_of_q_nil (s := { s with s := true, startable := false }) hq).2 ⟨hm, boundary_of_sc_zero hsc nofun⟩

/-- The devices write INPR, FGI and FGO only (R252, R253), which the invariant does not read. -/
theorem input_inv {c : Nat} {s t : State} (hi : s.Inv) (h : input c s = .next t) : t.Inv := by
  unfold input at h
  split_ifs at h with hq
  rw [not_not] at hq
  cases hv : loadChecked 8 c with
  | error f => simp [hv] at h
  | ok v =>
    obtain rfl : { s with inpr := v, fgi := true } = t := by simpa [hv] using h
    exact (inv_iff_of_q_nil (s := { s with inpr := v, fgi := true }) hq).2 ((inv_iff_of_q_nil hq).1 hi)

theorem outputReady_inv {s t : State} (hi : s.Inv) (h : outputReady s = .next t) : t.Inv := by
  unfold outputReady at h
  split_ifs at h with hq
  rw [not_not] at hq
  obtain rfl := Host.Outcome.next.inj h
  exact (inv_iff_of_q_nil (s := { s with fgo := true }) hq).2 ((inv_iff_of_q_nil hq).1 hi)

theorem hostAct_inv {a : HostAction} {s t : State} (hi : s.Inv) (h : hostAct a s = .next t) : t.Inv := by
  cases a with
  | load p => exact load_inv h
  | start => exact start_inv hi h
  | tick => exact tick_inv hi h
  | tickSplit => exact tickSplit_inv hi h
  | drain k => exact drain_inv hi h
  | drainAll => exact Host.Outcome.next.inj h ▸ drained_inv hi
  | input c => exact input_inv hi h
  | outputReady => exact outputReady_inv hi h

/-- Settles O6: each field by computation, each cell by `Memory.find_nil`. -/
theorem resetClearsEverything : Obligations.ResetClearsEverything :=
  ⟨rfl, rfl, rfl, rfl, rfl, rfl, rfl, rfl, rfl, rfl, rfl, rfl, rfl, rfl, rfl, rfl, rfl, rfl, Memory.find_nil⟩

/-- Settles O19: Q is empty and SC is 0, so little is asked. -/
theorem resetMeetsTheInvariant : Obligations.ResetMeetsTheInvariant :=
  (inv_iff_of_q_nil rfl).2 ⟨reset_mem_wf, boundary_of_sc_zero rfl fun _ => ⟨rfl, rfl⟩⟩

/-- Settles O20, by what a step can be: a host action, nothing (halted), the interrupt cycle, an instruction, or the
remaining ticks of a cycle. -/
theorem everyStepKeepsTheInvariant : Obligations.EveryStepKeepsTheInvariant := by
  intro s t hi h
  rcases step_next h with ⟨a, rest, -, ha⟩ | ⟨-, -, -, rfl⟩ | ⟨-, hq, hs, -, -, rfl⟩ | ⟨-, hq, hs, -, -, he⟩ |
    ⟨-, -, -, -, hrun⟩
  · exact hostAct_inv ((inv_setHost rest s).2 hi) ha
  · exact hi
  · obtain ⟨hm, hb⟩ := (inv_iff_of_q_nil hq).1 hi
    have hstart : s.startable = false := startable_of_running hb hs
    exact (inv_iff_of_q_nil (s := interruptCycle s) hq).2
      ⟨interruptCycle_wf hm, boundary_of_sc_zero rfl (by simp [hstart])⟩
  · obtain ⟨hm, hb⟩ := (inv_iff_of_q_nil hq).1 hi
    have hstart : s.startable = false := startable_of_running hb hs
    obtain ⟨-, -, hqt, hst, -⟩ := exec_frame he
    exact (inv_iff_of_q_nil (hqt.trans hq)).2 ⟨exec_wf hm he, boundary_of_sc_zero (exec_sc he) (by simp [hst, hstart])⟩
  · exact runCycle_induct (P := State.Inv) (fun _ _ => tick_inv) hi hrun

end Sys2Proof.Machine
end

section
/-! PROOFS. Memory as the machine and its host see it: a store is seen by the next fetch (R70), and the dump lists every
word (R74). -/

namespace Sys2Proof.Machine

/-! ### A store and the fetch after it -/

/-- At a fetch a step is the instruction at PC (R146). -/
theorem step_of_atFetch {s : State} (hs : s.AtFetch) : step s = exec (decode (s.readWord s.pc)) s := by
  obtain ⟨⟨hhost, hq, hrun, hsc⟩, hr⟩ := hs
  simp [step, hhost, hq, hrun, hsc, hr]

/-- STA, its effective address read off its operands (R137, R164). -/
theorem exec_sta (ind : Bool) (a : Addr) (s : State) :
    exec (.sta ind a) s =
      .next { (s.addressed (encode (.sta ind a))).writeWord (effectiveAddress s ind a) s.ac with sc := 0 } := by
  obtain ⟨-, hind, haddr⟩ := Laws.EncodedFields.sta ind a
  have har : (s.addressed (encode (.sta ind a))).ar = effectiveAddress s ind a := by
    rw [addressed_ar, hind, haddr]; rfl
  rw [← har]
  rfl

/-- After a STA with no interrupt requested the next step is an instruction again (R138, R232). -/
theorem exec_sta_atFetch {ind : Bool} {a : Addr} {s t : State} (hs : s.AtFetch) (hreq : s.requests = false)
    (h : exec (.sta ind a) s = .next t) : t.AtFetch := by
  obtain ⟨⟨hhost, hq, hrun, -⟩, hr⟩ := hs
  rw [exec_sta] at h
  obtain rfl := Host.Outcome.next.inj h
  exact ⟨⟨hhost, hq, hrun, rfl⟩, by simp [hr, hreq]⟩

/-- What STA stored is read back at its effective address (R63, R164). -/
theorem exec_sta_readWord {ind : Bool} {a : Addr} {s t : State} (h : exec (.sta ind a) s = .next t) :
    t.readWord (effectiveAddress s ind a) = s.ac := by
  rw [exec_sta] at h
  obtain rfl := Host.Outcome.next.inj h
  exact readWord_writeWord_same _ _ _

theorem exec_sta_pc {ind : Bool} {a : Addr} {s t : State} (h : exec (.sta ind a) s = .next t) : t.pc = s.pc + 1 := by
  rw [exec_sta] at h
  obtain rfl := Host.Outcome.next.inj h
  rfl

/-- Settles O11: after the store the machine is at a fetch (`exec_sta_atFetch`), and the word at PC is the one stored
(`exec_sta_readWord`). -/
theorem storeIntoTheNextWordIsFetched : Obligations.StoreIntoTheNextWordIsFetched := by
  intro s t hs hdec hreq h
  rw [step_of_atFetch hs, hdec] at h
  have hword : t.readWord t.pc = s.ac := by
    rw [exec_sta_pc h]
    exact exec_sta_readWord h
  rw [step_of_atFetch (exec_sta_atFetch hs hreq h), hword]

/-! ### The dump (R74) -/

@[simp] theorem hexWord_length (w : Word) : (hexWord w).length = 4 := rfl

/-- Each word has four digits, and a space stands before each word but the first. -/
theorem dumpFrom_length (m : Memory) (a n : Nat) : (dumpFrom m a (n + 1)).length = 5 * n + 4 := by
  induction n generalizing a with
  | zero => rfl
  | succ n ih =>
    rw [dumpFrom, List.length_append, List.length_cons, hexWord_length, ih]
    omega

/-- A dump of at least one word begins with the word at its first address. -/
theorem hexWord_prefix_dumpFrom (m : Memory) (a n : Nat) : hexWord (m.find a).value <+: dumpFrom m a (n + 1) := by
  cases n with
  | zero => exact List.prefix_rfl
  | succ n => exact List.prefix_append _ _

/-- Settles O59: 4096 words of four digits and 4095 spaces (`dumpFrom_length`), the word at address 0 first. -/
theorem dumpHasTwentyThousandCharacters : Obligations.DumpHasTwentyThousandCharacters := by
  intro s terminator
  constructor
  · rw [dump, List.length_append]
    exact congrArg (· + terminator.length) (dumpFrom_length s.mem 0 4095)
  · have hfirst : hexWord (s.readWord 0) <+: dump terminator s :=
      (hexWord_prefix_dumpFrom s.mem 0 4095).trans (List.prefix_append _ _)
    exact (List.prefix_iff_eq_take.1 hfirst).symm

end Sys2Proof.Machine
end

section
/-! PROOFS. Encoding and decoding are inverse (R81-R89): a word is the three fields R81 names, `encode` puts an
instruction's fields into its word, `decode` takes a word's fields into its instruction. -/

namespace Sys2Proof

/-! ### The fields of a word (R81) -/

/-- A word is its opcode class, its bit 15 and its bits 11:0. -/
theorem word_eq_of_fields {v w : Word} (hclass : opClassOf v = opClassOf w)
    (hbit : indirectBitOf v = indirectBitOf w) (haddr : addressOf v = addressOf w) : v = w := by
  refine BitVec.eq_of_getLsbD_eq fun k hk => ?_
  rcases (by omega : k < 12 ∨ 12 ≤ k ∧ k < 15 ∨ k = 15) with hlow | ⟨hmid, hmid'⟩ | rfl
  · simpa [addressOf, hlow] using congrArg (·.getLsbD k) haddr
  · simpa [opClassOf, show k - 12 < 3 by omega, show 12 + (k - 12) = k by omega]
      using congrArg (·.getLsbD (k - 12)) hclass
  · exact hbit

/-- Selector bit `k`, read from the word or from its bits 11:0. -/
theorem getElem_eq_addressOf (w : Word) {k : Nat} (hk : k < 12) : w[k] = (addressOf w)[k] := by
  simp [addressOf, BitVec.getLsbD_eq_getElem (show k < 16 by omega)]

/-- The bits below selector bit `n`, read from the word or from its bits 11:0. -/
theorem extractLsb'_eq_addressOf (w : Word) {n : Nat} (hn : n ≤ 12) :
    w.extractLsb' 0 n = (addressOf w).setWidth n := by
  ext k hk
  simp [addressOf, show k < 12 by omega]

/-- Class 7 is formats R and IO, the other seven classes are format M. -/
theorem opClassOf_cases (w : Word) : opClassOf w = 7 ∨ opClassOf w = 0 ∨ opClassOf w = 1 ∨ opClassOf w = 2 ∨
    opClassOf w = 3 ∨ opClassOf w = 4 ∨ opClassOf w = 5 ∨ opClassOf w = 6 :=
  (by decide : ∀ c : BitVec 3, c = 7 ∨ c = 0 ∨ c = 1 ∨ c = 2 ∨ c = 3 ∨ c = 4 ∨ c = 5 ∨ c = 6) _

/-! ### The family (R84) -/

theorem Instr.family_memory_iff (i : Instr) : i.family = .memoryReference ↔ i.opClass ≠ 7 := by
  cases i <;> simp [Instr.family, Instr.opClass]

theorem Instr.family_register_iff (i : Instr) : i.family = .registerReference ↔ i.opClass = 7 ∧ i.bit15 = false := by
  cases i <;> simp [Instr.family, Instr.opClass, Instr.bit15]

theorem Instr.family_io_iff (i : Instr) : i.family = .inputOutput ↔ i.opClass = 7 ∧ i.bit15 = true := by
  cases i <;> simp [Instr.family, Instr.opClass, Instr.bit15]

theorem decode_register {w : Word} (hclass : opClassOf w = 7) (hbit : indirectBitOf w = false) :
    decode w = decodeRegister w := by
  simp [decode, hclass, hbit]

theorem decode_io {w : Word} (hclass : opClassOf w = 7) (hbit : indirectBitOf w = true) : decode w = decodeIo w := by
  simp [decode, hclass, hbit]

/-! ### Decode of encode (R81-R83, R86) -/

/-- The highest selector bit of an instruction's word is its row's, and the bits below it are its operand. -/
theorem decodeRegister_encode {i : Instr} (hf : i.family = .registerReference) : decodeRegister (encode i) = i := by
  simp only [decodeRegister, getElem_eq_addressOf, extractLsb'_eq_addressOf, addressOf_encode,
    Nat.reduceLT, Nat.reduceLeDiff]
  cases i <;> simp [Instr.family] at hf <;> simp [Instr.low12]

theorem decodeIo_encode {i : Instr} (hf : i.family = .inputOutput) : decodeIo (encode i) = i := by
  simp only [decodeIo, getElem_eq_addressOf, extractLsb'_eq_addressOf, addressOf_encode,
    Nat.reduceLT, Nat.reduceLeDiff]
  cases i <;> simp [Instr.family] at hf <;> simp [Instr.low12]

theorem decode_encode (i : Instr) : decode (encode i) = i := by
  cases hf : i.family with
  | memoryReference =>
    cases i <;> simp [Instr.family] at hf <;> simp [decode, Instr.opClass, Instr.bit15, Instr.low12]
  | registerReference =>
    obtain ⟨hclass, hbit⟩ := i.family_register_iff.1 hf
    rw [decode_register (by rwa [opClassOf_encode]) (by rwa [indirectBitOf_encode]), decodeRegister_encode hf]
  | inputOutput =>
    obtain ⟨hclass, hbit⟩ := i.family_io_iff.1 hf
    rw [decode_io (by rwa [opClassOf_encode]) (by rwa [indirectBitOf_encode]), decodeIo_encode hf]

/-! ### Encode of decode (R87) -/

/-- The lowest `n + 1` bits of a word are its bit `n` and the `n` bits below it. -/
theorem extractLsb'_succ (w : Word) {n : Nat} (hn : n < 12) :
    (w.extractLsb' 0 (n + 1)).setWidth 12 =
      (if w[n] then BitVec.twoPow 12 n else 0) ||| (w.extractLsb' 0 n).setWidth 12 := by
  ext k hk
  rcases Nat.lt_trichotomy k n with hlt | rfl | hgt
  · cases w[n] <;> simp [hlt, Nat.lt_succ_of_lt hlt, hlt.ne]
  · cases h : w[k] <;> simp [h, show k < 16 by omega]
  · cases w[n] <;> simp [hgt.ne', show ¬ k < n by omega, show ¬ k < n + 1 by omega]

/-- An instruction of the family `f` whose bits 11:0 are `sel`. -/
def Instr.Selects (f : Family) (sel : BitVec 12) (i : Instr) : Prop := i.family = f ∧ i.low12 = sel

/-- One row of the decoder's chain: if the row taken at a set bit `n` selects that bit and the `n` bits below it, and
the rows after it select the `n` bits, the chain selects the `n + 1` bits. -/
theorem selects_row {w : Word} {n : Nat} (hn : n < 12) {f : Family} {i j : Instr}
    (hset : i.Selects f (BitVec.twoPow 12 n ||| (w.extractLsb' 0 n).setWidth 12))
    (hclear : j.Selects f ((w.extractLsb' 0 n).setWidth 12)) :
    (if w[n] then i else j).Selects f ((w.extractLsb' 0 (n + 1)).setWidth 12) := by
  rw [extractLsb'_succ w hn]
  cases w[n] with
  | true => exact hset
  | false => simpa using hclear

theorem decodeRegister_selects (w : Word) : (decodeRegister w).Selects .registerReference (addressOf w) := by
  have hhlt : (if w[0] then Instr.hlt else .nopRegister).Selects .registerReference
      ((w.extractLsb' 0 1).setWidth 12) :=
    selects_row (by decide) ⟨rfl, by simp [Instr.low12, BitVec.twoPow_zero]⟩ ⟨rfl, by simp [Instr.low12]⟩
  rw [← BitVec.setWidth_eq (addressOf w)]
  exact selects_row (by decide) ⟨rfl, rfl⟩ <| selects_row (by decide) ⟨rfl, rfl⟩ <|
    selects_row (by decide) ⟨rfl, rfl⟩ <| selects_row (by decide) ⟨rfl, rfl⟩ <|
    selects_row (by decide) ⟨rfl, rfl⟩ <| selects_row (by decide) ⟨rfl, rfl⟩ <|
    selects_row (by decide) ⟨rfl, rfl⟩ <| selects_row (by decide) ⟨rfl, rfl⟩ <|
    selects_row (by decide) ⟨rfl, rfl⟩ <| selects_row (by decide) ⟨rfl, rfl⟩ <|
    selects_row (by decide) ⟨rfl, rfl⟩ hhlt

theorem decodeIo_selects (w : Word) : (decodeIo w).Selects .inputOutput (addressOf w) := by
  rw [← BitVec.setWidth_eq (addressOf w)]
  exact selects_row (by decide) ⟨rfl, rfl⟩ <| selects_row (by decide) ⟨rfl, rfl⟩ <|
    selects_row (by decide) ⟨rfl, rfl⟩ <| selects_row (by decide) ⟨rfl, rfl⟩ <|
    selects_row (by decide) ⟨rfl, rfl⟩ <| selects_row (by decide) ⟨rfl, rfl⟩ ⟨rfl, rfl⟩

/-- `decode` takes a word's three fields into its instruction. -/
theorem decode_fields (w : Word) :
    (decode w).opClass = opClassOf w ∧ (decode w).bit15 = indirectBitOf w ∧ (decode w).low12 = addressOf w := by
  rcases opClassOf_cases w with h | h | h | h | h | h | h | h
  · cases hbit : indirectBitOf w with
    | false =>
      obtain ⟨hfamily, hlow⟩ := decodeRegister_selects w
      obtain ⟨hclass, hind⟩ := (Instr.family_register_iff _).1 hfamily
      rw [decode_register h hbit]
      exact ⟨hclass.trans h.symm, hind, hlow⟩
    | true =>
      obtain ⟨hfamily, hlow⟩ := decodeIo_selects w
      obtain ⟨hclass, hind⟩ := (Instr.family_io_iff _).1 hfamily
      rw [decode_io h hbit]
      exact ⟨hclass.trans h.symm, hind, hlow⟩
  all_goals simp [decode, h, Instr.opClass, Instr.bit15, Instr.low12]

theorem encode_decode (w : Word) : encode (decode w) = w := by
  obtain ⟨hclass, hbit, hlow⟩ := decode_fields w
  exact word_eq_of_fields (by rw [opClassOf_encode, hclass]) (by rw [indirectBitOf_encode, hbit])
    (by rw [addressOf_encode, hlow])

/-- Bits 15:12 are bit 15 and the opcode class. -/
theorem extractLsb'_family (w : Word) : w.extractLsb' 12 4 = BitVec.cons (indirectBitOf w) (opClassOf w) := by
  ext k hk
  rw [BitVec.getElem_cons]
  split_ifs with h
  · subst h; simp [indirectBitOf]
  · simp [opClassOf]

/-- 0111 and 1111 are class 7 with bit 15 clear and set. -/
theorem cons_eq_iff (b : Bool) (c : BitVec 3) :
    (BitVec.cons b c = 0b0111#4 ↔ c = 7 ∧ b = false) ∧ (BitVec.cons b c = 0b1111#4 ↔ c = 7 ∧ b = true) := by
  revert b c
  decide

/-! ### The code as a sum (R101) -/

/-- Base code and operand occupy disjoint bits, so their OR is their sum. -/
theorem combine_eq_add {n : Nat} {base : Word} (rest : BitVec n) (hbase : base.setWidth n = 0) :
    combine base rest = base + rest.setWidth 16 := by
  refine (BitVec.add_eq_or_of_and_eq_zero _ _ ?_).symm
  ext k hk
  by_cases hkn : k < n
  · have hbit : base[k] = false := by simpa [hkn, BitVec.getLsbD_eq_getElem hk] using congrArg (·.getLsbD k) hbase
    simp [hbit]
  · simp [BitVec.getLsbD_of_ge rest k (by omega)]

theorem encodeMemory_eq_add {base : Word} (hbit : base &&& 0x8000 = 0) (hlow : base.setWidth 12 = 0) (ind : Bool)
    (a : Addr) : encodeMemory ind base a = base + ((if ind then 0x8000 else 0) + a.setWidth 16) := by
  cases ind with
  | false => simp [encodeMemory, combine_eq_add a hlow]
  | true =>
    have hlow' : (base + 0x8000).setWidth 12 = 0 := by rw [BitVec.setWidth_add _ _ (by decide), hlow]; rfl
    simp only [encodeMemory, if_true]
    rw [← BitVec.add_eq_or_of_and_eq_zero _ _ hbit, combine_eq_add a hlow', BitVec.add_assoc]

/-! ### The statements of the encoding -/

/-- Settles O2: one family at a time, from the fields of the instruction's word (`decode_encode`). -/
theorem decodeOfEncodeIsTheInstruction : Obligations.DecodeOfEncodeIsTheInstruction := decode_encode

/-- Settles O3: the word of `decode w` has the three fields of `w` (`encode_decode`). -/
theorem encodeOfDecodeIsTheWord : Obligations.EncodeOfDecodeIsTheWord := encode_decode

/-- Settles O4: an instruction's class and bit 15 determine its family, and `decode` keeps both. -/
theorem familySelection : Obligations.FamilySelection := by
  intro w
  obtain ⟨hclass, hbit, -⟩ := decode_fields w
  obtain ⟨hregister, hio⟩ := cons_eq_iff (indirectBitOf w) (opClassOf w)
  rw [Instr.family_memory_iff, Instr.family_register_iff, Instr.family_io_iff, hclass, hbit, extractLsb'_family]
  exact ⟨Iff.rfl, hregister.symm, hio.symm⟩

/-- Settles O5: `encodeMemory_eq_add` at each of the seven base codes. -/
theorem memoryReferenceCodeIsTheSum : Obligations.MemoryReferenceCodeIsTheSum := by
  intro ind a
  exact ⟨encodeMemory_eq_add (by decide) (by decide) ind a, encodeMemory_eq_add (by decide) (by decide) ind a,
    encodeMemory_eq_add (by decide) (by decide) ind a, encodeMemory_eq_add (by decide) (by decide) ind a,
    encodeMemory_eq_add (by decide) (by decide) ind a, encodeMemory_eq_add (by decide) (by decide) ind a,
    encodeMemory_eq_add (by decide) (by decide) ind a⟩

/-- Settles O1: each word is the word of the instruction named, so `decode_encode` applies. -/
theorem specWordsDecode : Obligations.SpecWordsDecode :=
  ⟨decode_encode (.lda false 0x101), decode_encode (.lda true 0x101), decode_encode (.bsa false 0xFFF),
    decode_encode (.isz true 0xABC), decode_encode .hlt, decode_encode (.cir 0), decode_encode (.cla 0x400),
    decode_encode .nopRegister, decode_encode (.iof 0), decode_encode (.inp 0x03F), decode_encode (.nopIo 0x3F)⟩

/-! ### The words without a selector bit (R88, R89) -/

namespace Machine

/-- An instruction that fires no rule at T3 only passes through the cycle (R146). -/
theorem executeT3_nil (i : Instr) (s : State) : executeT3 [] (s.fetched (encode i)) =
    .next (s.cycleDone (encode i) (onehot8 i.opClass) i.bit15 i.low12) := by
  rw [← opClassOf_encode, ← indirectBitOf_encode, ← addressOf_encode]
  rfl

/-- Settles O38: neither word fires a rule (`executeT3_nil`), and 0xF000 and the ignored bits are disjoint. -/
theorem wordsWithoutSelectorDoNothing : Obligations.WordsWithoutSelectorDoNothing := by
  refine ⟨executeT3_nil .nopRegister, fun ignored s => ?_⟩
  have hword : encode (.nopIo ignored) = 0xF000 + ignored.setWidth 16 := combine_eq_add ignored (by decide)
  rw [← hword]
  exact executeT3_nil (.nopIo ignored) s

end Machine

end Sys2Proof
end

section
/-! PROOFS. The tick of the control unit: the order of a batch (R125, R129), the split form (R130), halting (R121), the
contract violation that no run reaches (R143), and fetch and decode (R131-R133). -/

namespace Sys2Proof.Machine

/-! ### A batch in any order (R125, R129) -/

theorem conflictFree_perm {b c : List MicroOp} (h : b.Perm c) : conflictFree b = conflictFree c := by
  have htargets : (targets b).Perm (targets c) := (h.map _).filter _
  simp only [conflictFree, htargets.nodup_iff]

/-- Settles O17, by induction on the batch: its first micro-operation stands somewhere in the other order, commutes with
those before it there (`commutes_of_conflictFree`), and so may be applied first (`applyAll_move_front`). -/
theorem batchOrderIsIrrelevant : Obligations.BatchOrderIsIrrelevant := by
  intro b
  induction b with
  | nil => intro c s _ _ hp; rw [hp.nil_eq]
  | cons op ops ih =>
    intro c s hm hb hp
    obtain ⟨before, after, rfl⟩ := List.append_of_mem (hp.subset List.mem_cons_self)
    have hcomm := commutes_of_conflictFree (conflictFree_perm hp ▸ hb)
    have hrest : ops.Perm (before ++ after) := (hp.trans List.perm_middle).cons_inv
    rw [applyAll_cons, applyAll_move_front hcomm after hm]
    exact ih _ _ (apply_wf op hm) (conflictFree_of_sublist (List.sublist_cons_self op ops) hb) hrest

/-! ### When a tick stops (R130, R142, R143) -/

theorem tick_of_undrained {s : State} (hq : s.q ≠ []) : tick s = .refused .undrainedQueue := if_pos hq

theorem tickSplit_of_undrained {s : State} (hq : s.q ≠ []) : tickSplit s = .refused .undrainedQueue := if_pos hq

theorem tick_of_conflict {s : State} (hq : s.q = []) (hs : s.s = true) (hc : conflictFree (batch s) = false) :
    tick s = .refused .writeConflict := by
  simp [tick, hq, hs, hc]

theorem tickSplit_of_conflict {s : State} (hq : s.q = []) (hs : s.s = true) (hc : conflictFree (batch s) = false) :
    tickSplit s = .refused .writeConflict := by
  simp [tickSplit, hq, hs, hc]

theorem advanceSc_six : advanceSc 6 = none := rfl

/-- Settles O18: the two forms read the same batch and neither can advance SC. -/
theorem scPastSixIsAContractViolation : Obligations.ScPastSixIsAContractViolation := by
  intro s hq hs hsc hc hm
  constructor
  · simp [tick, hq, hs, hc, hm, hsc, advanceSc_six]
  · simp [tickSplit, hq, hs, hc, hm, hsc, advanceSc_six]

/-- If a split tick is a contract violation: SC = 6 on a running machine, and no rule clears it (R143). -/
theorem tickSplit_fault {s : State} {f : Fault} (h : tickSplit s = .fault f) :
    f = .scOverflow ∧ s.q = [] ∧ s.s = true ∧ s.sc = 6 ∧ conflictFree (batch s) = true ∧
      MicroOp.clearSc ∉ batch s := by
  unfold tickSplit at h
  split_ifs at h with hq hs hc hm <;> split at h <;> cases h
  next hk => exact ⟨rfl, not_not.1 hq, by simpa using hs, advanceSc_none hk, by simpa using hc, hm⟩

theorem tick_fault {s : State} {f : Fault} (h : tick s = .fault f) :
    s.q = [] ∧ s.sc = 6 ∧ MicroOp.clearSc ∉ batch s := by
  unfold tick at h
  split_ifs at h with hq hs hc hm
  split at h
  · cases h
  · next hk => exact ⟨not_not.1 hq, advanceSc_none hk, hm⟩

/-- If a split tick is refused, the fused tick is, for the same reason (R130, R142). -/
theorem tickSplit_refused {s : State} {r : Refusal} (h : tickSplit s = .refused r) : tick s = .refused r := by
  by_cases hq : s.q = []
  · cases hs : s.s with
    | false => simp [tickSplit, hq, hs] at h
    | true =>
      cases hc : conflictFree (batch s) with
      | false => rwa [tick_of_conflict hq hs hc, ← tickSplit_of_conflict hq hs hc]
      | true =>
        simp only [tickSplit, hq, hs, hc] at h
        cases hk : advanceSc s.sc <;> simp [hk] at h
        split_ifs at h
  · rwa [tick_of_undrained hq, ← tickSplit_of_undrained hq]

/-- Settles O16, by what the split tick answers: a state (`tick_of_tickSplit`), the fault of R143, which the fused tick
has too, or a refusal (`tickSplit_refused`). -/
theorem splitFormEqualsTick : Obligations.SplitFormEqualsTick := by
  intro s
  cases h : tickSplit s with
  | next u => exact tick_of_tickSplit h
  | fault f =>
    obtain ⟨rfl, hq, hs, hsc, hc, hm⟩ := tickSplit_fault h
    exact (scPastSixIsAContractViolation s hq hs hsc hc hm).1
  | refused r => exact tickSplit_refused h

/-- Settles O8: the tick is `tick_of_halted`, the step comes to the same test of S, and strict mode only reports it. -/
theorem haltedMachineStays : Obligations.HaltedMachineStays := by
  intro s hq hs
  refine ⟨tick_of_halted hq hs, fun hhost => ?_, ?_, rfl⟩
  · simp [step, hhost, hq, hs]
  · simp [illegalStateSignal, hs]

/-! ### T3 of the words of class 7 (R139, R180, R210) -/

/-- A register-reference or input-output instruction is its tick T3: IRQ, the clear of SC by r or p, and the rules of
the selector bits, none of which writes R or what the fetch and decode wrote, except PC. -/
theorem exec_class7 {i : Instr} (hf : i.family ≠ .memoryReference) (s : State) :
    ∃ ops, exec i s = executeT3 ops (s.fetched (encode i)) ∧
      batch (s.fetched (encode i)) = irqOps (s.fetched (encode i)) ++ .clearSc :: ops ∧
      ∀ op ∈ ops, op.target ≠ .r ∧ op.target ≠ .ir ∧ op.target ≠ .d ∧ op.target ≠ .i ∧ op.target ≠ .ar := by
  cases hf' : i.family with
  | memoryReference => exact absurd hf' hf
  | registerReference =>
    obtain ⟨hclass, hbit⟩ := i.family_register_iff.1 hf'
    refine ⟨_, exec_register hf' s, ?_, fun op hop => ?_⟩
    · simpa using batch_register_T3 (s := s.fetched (encode i)) (by simp [hclass, onehot8]) (by simp [hbit]) rfl
    · rcases registerOps_target hop with h | h | h | h <;> simp [h]
  | inputOutput =>
    obtain ⟨hclass, hbit⟩ := i.family_io_iff.1 hf'
    refine ⟨_, exec_io hf' s, ?_, fun op hop => ?_⟩
    · simpa using batch_io_T3 (s := s.fetched (encode i)) (by simp [hclass, onehot8]) (by simp [hbit]) rfl
    · rcases ioOps_target hop with h | h | h | h | h | h <;> simp [h]

/-! ### No fault in reachable states (R10, R143) -/

/-- The one class that reaches SC = 6 is ISZ, whose last tick clears SC (R42, R167). -/
theorem tick_ne_fault {s : State} (hi : s.Inv) (f : Fault) : tick s ≠ .fault f := by
  intro h
  obtain ⟨hq, hsc, hm⟩ := tick_fault h
  obtain ⟨-, -, -, -, h6, -⟩ := (inv_iff_of_q_nil hq).1 hi
  exact hm (by simp [batch_isz_T6 (h6 hsc) hsc])

theorem runCycle_ne_fault {s : State} (hi : s.Inv) (n : Nat) (f : Fault) : runCycle n s ≠ .fault f := by
  induction n generalizing s with
  | zero => exact nofun
  | succ n ih =>
    unfold runCycle
    cases ht : tick s with
    | next t =>
      show (if t.sc = 0 then _ else _) ≠ _
      split_ifs
      · exact nofun
      · exact ih (tick_inv hi ht)
    | fault g => exact absurd ht (tick_ne_fault hi g)
    | refused r => exact nofun

/-- An instruction completes or is a write conflict, never a fault (R160, R142). -/
theorem exec_ne_fault (i : Instr) (s : State) (f : Fault) : exec i s ≠ .fault f := by
  by_cases hf : i.family = .memoryReference
  · obtain ⟨t, ht⟩ := exec_memory_next hf s
    rw [ht]
    exact nofun
  · obtain ⟨ops, hexec, -⟩ := exec_class7 hf s
    rw [hexec]
    rcases executeT3_cases ops (s.fetched (encode i)) with ⟨-, he⟩ | ⟨-, he⟩ <;> rw [he] <;> exact nofun

/-- Settles O21, by what a step without a host action does: only ticks within a cycle can fault, and under the invariant
they do not (`runCycle_ne_fault`). -/
theorem noProgramCausesAFault : Obligations.NoProgramCausesAFault := by
  intro s hi hhost f
  unfold step
  rw [hhost]
  show (if _ then _ else _) ≠ _
  split_ifs
  · exact nofun
  · exact nofun
  · exact nofun
  · exact exec_ne_fault _ _ _
  · exact runCycle_ne_fault hi 7 f

/-! ### Fetch and decode (R131-R133) -/

/-- A tick that does not end the cycle, the batch given. -/
theorem tick_of_batch_advance {s : State} {ops : List MicroOp} (hq : s.q = []) (hs : s.s = true) (hb : batch s = ops)
    (hc : conflictFree ops = true) (hm : MicroOp.clearSc ∉ ops) {k : Fin 7} (hk : advanceSc s.sc = some k) :
    tick s = .next { applyAll ops s with sc := k } := by
  subst hb
  exact tick_of_advance hq hs hc hm hk

/-- Settles O12: at each T-state the one rule that fires is F0, F1 or DEC. -/
theorem fetchAndDecodeTicks : Obligations.FetchAndDecodeTicks := by
  intro s hq hs hr
  refine ⟨fun hsc => ?_, fun hsc => ?_, fun hsc => ?_⟩
  · exact tick_of_batch_advance hq hs (batch_F0 hr hsc) rfl (by simp) (hsc ▸ rfl)
  · exact tick_of_batch_advance hq hs (batch_F1 hr hsc) rfl (by simp) (hsc ▸ rfl)
  · exact tick_of_batch_advance hq hs (batch_DEC hr hsc) rfl (by simp) (hsc ▸ rfl)

end Sys2Proof.Machine
end

section
/-! PROOFS. The ticks of an instruction cycle add up to the instruction's meaning (R120, R140, R146): T0 to T2 are the
fetch, T3 of class 7 is `executeT3`, and T3 to T6 of the other classes are the meanings of R161-R167. -/

namespace Sys2Proof.Machine

/-! ### Ticks of one cycle in a row (R138) -/

theorem runCycle_of_next {s t : State} (h : tick s = .next t) (hsc : t.sc ≠ 0) (n : Nat) :
    runCycle (n + 1) s = runCycle n t := by
  simp [runCycle, h, hsc]

theorem runCycle_of_end {s t : State} (h : tick s = .next t) (hsc : t.sc = 0) (n : Nat) :
    runCycle (n + 1) s = .next t := by
  simp [runCycle, h, hsc]

/-- T0 to T2 leave the state that `exec` begins its T3 in (R131-R133). -/
theorem runCycle_fetch {s : State} (hs : s.AtFetch) (n : Nat) :
    runCycle (n + 3) s = runCycle n (s.fetched (s.readWord s.pc)) := by
  obtain ⟨⟨-, hq, hrun, hsc⟩, hr⟩ := hs
  have hT0 := (fetchAndDecodeTicks s hq hrun hr).1 hsc
  have hT1 := (fetchAndDecodeTicks { s with ar := s.pc, sc := 1 } hq hrun hr).2.1 rfl
  have hT2 := (fetchAndDecodeTicks
    { s with ar := s.pc, ir := s.readWord s.pc, pc := s.pc + 1, sc := 2 } hq hrun hr).2.2 rfl
  rw [runCycle_of_next hT0 (by simp), runCycle_of_next hT1 (by simp)]
  exact runCycle_of_next hT2 (by simp) n

/-! ### The request beside the other rules (R232) -/

/-- IRQ conflicts with nothing that leaves R alone. -/
theorem conflictFree_irqOps_append {ops : List MicroOp} (hops : ∀ op ∈ ops, op.target ≠ .r) (s : State) :
    conflictFree (irqOps s ++ ops) = conflictFree ops := by
  have hr : Target.r ∉ targets ops := by simpa [targets] using hops
  cases hreq : s.requests with
  | false => simp [irqOps, hreq]
  | true =>
    have htargets : targets (irqOps s ++ ops) = .r :: targets ops := by simp [irqOps, hreq, targets, MicroOp.target]
    simp [conflictFree, htargets, hr]

theorem clearSc_mem_irqOps_append {ops : List MicroOp} (s : State) :
    MicroOp.clearSc ∈ irqOps s ++ ops ↔ MicroOp.clearSc ∈ ops := by
  cases hreq : s.requests <;> simp [irqOps, hreq]

/-- A batch that leaves R alone leaves it as it finds it. -/
theorem applyAll_setR {ops : List MicroOp} (hops : ∀ op ∈ ops, op.target ≠ .r) (b : Bool) (s : State) :
    applyAll ops { s with r := b } = { applyAll ops s with r := b } := by
  induction ops generalizing s with
  | nil => rfl
  | cons op ops ih =>
    obtain ⟨hop, hops⟩ := List.forall_mem_cons.1 hops
    rw [applyAll_cons, applyAll_cons, ← ih hops]
    cases op <;> first | rfl | exact absurd rfl hop

/-! ### T3 of the words of class 7, ticked -/

/-- The tick of r or p, IRQ and the rules of the selector bits is `executeT3` of those rules. -/
theorem runCycle_of_T3 {t : State} {ops : List MicroOp} (hq : t.q = []) (hs : t.s = true)
    (hb : batch t = irqOps t ++ .clearSc :: ops) (hops : ∀ op ∈ ops, op.target ≠ .r) (n : Nat) :
    runCycle (n + 1) t = executeT3 ops t := by
  have hall : ∀ op ∈ MicroOp.clearSc :: ops, op.target ≠ .r := List.forall_mem_cons.2 ⟨nofun, hops⟩
  have hcf : conflictFree (batch t) = conflictFree ops := by
    rw [hb, conflictFree_irqOps_append hall]
    rfl
  rcases executeT3_cases ops t with ⟨hc, he⟩ | ⟨hc, he⟩
  · have hstate : { applyAll (batch t) t with sc := 0 } =
        { applyAll ops t with sc := 0, r := t.r || t.requests } := by
      rw [hb, applyAll_append, applyAll_irqOps, applyAll_setR hall, applyAll_cons, MicroOp.apply, applyAll_setSc]
    rw [he, ← hstate]
    exact runCycle_of_end (tick_of_clear hq hs (hcf.trans hc) (by simp [hb])) rfl n
  · rw [he]
    simp [runCycle, tick_of_conflict hq hs (hcf.trans hc)]

theorem runCycle_class7 {i : Instr} (hf : i.family ≠ .memoryReference) {s : State} (hq : s.q = []) (hs : s.s = true)
    (n : Nat) : runCycle (n + 1) (s.fetched (encode i)) = exec i s := by
  obtain ⟨ops, hexec, hbatch, hops⟩ := exec_class7 hf s
  rw [hexec]
  exact runCycle_of_T3 (t := s.fetched (encode i)) hq hs hbatch (fun op hop => (hops op hop).1) n

/-! ### T3 to T6 of the memory-reference words (R134-R137, R161-R167) -/

/-- Only class 7 puts 0x80 into D (R133). -/
theorem onehot8_ne_of_memory : ∀ k : BitVec 3, k ≠ 7 → onehot8 k ≠ 0x80 := by decide

/-- T3 leaves the state that the meanings begin T4 in. -/
theorem tick_memory_T3 {w : Word} {s : State} (hclass : opClassOf w ≠ 7) (hq : s.q = []) (hs : s.s = true) :
    tick (s.fetched w) = .next (s.addressed w) := by
  have hb := batch_memory_T3 (s := s.fetched w) rfl (onehot8_ne_of_memory _ hclass) rfl
  have hcf : conflictFree (batch (s.fetched w)) = true := by
    rw [hb, conflictFree_perm List.perm_append_comm, conflictFree_irqOps_append (by split <;> simp [MicroOp.target])]
    split <;> rfl
  have hm : MicroOp.clearSc ∉ batch (s.fetched w) := by
    rw [hb, List.perm_append_comm.mem_iff, clearSc_mem_irqOps_append]
    split <;> simp
  have hstate : { applyAll (batch (s.fetched w)) (s.fetched w) with sc := 4 } = s.addressed w := by
    rw [hb, applyAll_append, applyAll_irqOps, fetched_i]
    cases hbit : indirectBitOf w <;> simp [State.addressed, effectiveAddress, hbit, MicroOp.apply]
  rw [← hstate]
  exact tick_of_advance (s := s.fetched w) hq hs hcf hm rfl

/-- Past T3 the request has been raised if it is to be, so IRQ changes nothing more (R232). -/
structure State.Executing (t : State) : Prop where
  queue : t.q = []
  running : t.s = true
  sampled : (t.r || t.requests) = t.r

theorem addressed_executing {s : State} (hq : s.q = []) (hs : s.s = true) (w : Word) : (s.addressed w).Executing :=
  ⟨hq, hs, by simp⟩

theorem irqOps_append_sublist (ops : List MicroOp) (t : State) : (irqOps t ++ ops).Sublist (.setR true :: ops) := by
  cases hreq : t.requests <;> simp [irqOps, hreq]

namespace State.Executing

variable {t : State} {ops : List MicroOp}

/-- The condition reads neither DR, AR, PC, memory nor SC. -/
theorem update (ht : t.Executing) {dr : Word} {ar pc : Addr} {mem : Memory} {sc : Fin 7} :
    { t with dr := dr, ar := ar, pc := pc, mem := mem, sc := sc }.Executing :=
  ⟨ht.queue, ht.running, ht.sampled⟩

theorem applyAll_irqOps_append (ht : t.Executing) : applyAll (irqOps t ++ ops) t = applyAll ops t := by
  rw [applyAll_append, applyAll_irqOps, ht.sampled]

/-- A tick past T3 that does not end the cycle: what fires beside IRQ may not write R. -/
theorem runCycle_advance (ht : t.Executing) (hb : batch t = irqOps t ++ ops)
    (hc : conflictFree (.setR true :: ops) = true) (hm : MicroOp.clearSc ∉ ops) {k : Fin 7}
    (hk : advanceSc t.sc = some k) (n : Nat) : runCycle (n + 1) t = runCycle n { applyAll ops t with sc := k } := by
  rw [← ht.applyAll_irqOps_append, ← hb]
  refine runCycle_of_next (tick_of_advance ht.queue ht.running ?_ ?_ hk) ?_ n
  · exact hb ▸ conflictFree_of_sublist (irqOps_append_sublist ops t) hc
  · rwa [hb, clearSc_mem_irqOps_append]
  · intro (h0 : k = 0)
    have hval := advanceSc_some hk
    simp [h0] at hval

/-- A tick past T3 that ends the cycle. -/
theorem runCycle_clear (ht : t.Executing) (hb : batch t = irqOps t ++ ops)
    (hc : conflictFree (.setR true :: ops) = true) (hm : MicroOp.clearSc ∈ ops) (n : Nat) :
    runCycle (n + 1) t = .next { applyAll ops t with sc := 0 } := by
  rw [← ht.applyAll_irqOps_append, ← hb]
  refine runCycle_of_end (tick_of_clear ht.queue ht.running ?_ ?_) rfl n
  · exact hb ▸ conflictFree_of_sublist (irqOps_append_sublist ops t) hc
  · rwa [hb, clearSc_mem_irqOps_append]

/-- T4 of AND, ADD, LDA and ISZ: the operand goes to DR. -/
theorem runCycle_read (ht : t.Executing) (hsc : t.sc = 4) (hb : batch t = irqOps t ++ [.setDr (t.readWord t.ar)])
    (n : Nat) : runCycle (n + 1) t = runCycle n { t with dr := t.readWord t.ar, sc := 5 } :=
  ht.runCycle_advance hb rfl (by simp) (hsc ▸ rfl) n

theorem runCycle_and (ht : t.Executing) (hd : t.d = 0x01) (hsc : t.sc = 4) :
    runCycle 3 t = .next { t with dr := t.readWord t.ar, ac := t.ac &&& t.readWord t.ar, sc := 0 } := by
  have ht5 : { t with dr := t.readWord t.ar, sc := 5 }.Executing := ht.update
  rw [ht.runCycle_read hsc (batch_and_T4 hd hsc)]
  exact ht5.runCycle_clear (batch_and_T5 hd rfl) rfl (by simp) 1

theorem runCycle_add (ht : t.Executing) (hd : t.d = 0x02) (hsc : t.sc = 4) :
    runCycle 3 t = .next { t with
      dr := t.readWord t.ar
      ac := addResult t.ac (t.readWord t.ar)
      e := addCarry t.ac (t.readWord t.ar)
      sc := 0 } := by
  have ht5 : { t with dr := t.readWord t.ar, sc := 5 }.Executing := ht.update
  rw [ht.runCycle_read hsc (batch_add_T4 hd hsc)]
  exact ht5.runCycle_clear (batch_add_T5 hd rfl) rfl (by simp) 1

theorem runCycle_lda (ht : t.Executing) (hd : t.d = 0x04) (hsc : t.sc = 4) :
    runCycle 3 t = .next { t with dr := t.readWord t.ar, ac := t.readWord t.ar, sc := 0 } := by
  have ht5 : { t with dr := t.readWord t.ar, sc := 5 }.Executing := ht.update
  rw [ht.runCycle_read hsc (batch_lda_T4 hd hsc)]
  exact ht5.runCycle_clear (batch_lda_T5 hd rfl) rfl (by simp) 1

theorem runCycle_sta (ht : t.Executing) (hd : t.d = 0x08) (hsc : t.sc = 4) :
    runCycle 3 t = .next { t.writeWord t.ar t.ac with sc := 0 } :=
  ht.runCycle_clear (batch_sta_T4 hd hsc) rfl (by simp) 2

theorem runCycle_bun (ht : t.Executing) (hd : t.d = 0x10) (hsc : t.sc = 4) :
    runCycle 3 t = .next { t with pc := t.ar, sc := 0 } :=
  ht.runCycle_clear (batch_bun_T4 hd hsc) rfl (by simp) 2

theorem runCycle_bsa (ht : t.Executing) (hd : t.d = 0x20) (hsc : t.sc = 4) :
    runCycle 3 t = .next { t.writeWord t.ar (zext16 t.pc) with ar := t.ar + 1, pc := t.ar + 1, sc := 0 } := by
  have ht5 : { t.writeWord t.ar (zext16 t.pc) with ar := t.ar + 1, sc := 5 }.Executing := ht.update
  have hT4 := ht.runCycle_advance (batch_bsa_T4 hd hsc) rfl (by simp) (k := 5) (hsc ▸ rfl) 2
  rw [hT4]
  exact ht5.runCycle_clear (batch_bsa_T5 hd rfl) rfl (by simp) 1

/-- T6 of ISZ stores the incremented word and skips if it is zero (R167). -/
theorem runCycle_isz_T6 (ht : t.Executing) (hd : t.d = 0x40) (hsc : t.sc = 6) (n : Nat) :
    runCycle (n + 1) t =
      .next { t.writeWord t.ar t.dr with pc := if t.dr = 0 then t.pc + 1 else t.pc, sc := 0 } := by
  refine (ht.runCycle_clear (batch_isz_T6 hd hsc) (by split <;> rfl) (by simp) n).trans ?_
  split_ifs <;> rfl

theorem runCycle_isz (ht : t.Executing) (hd : t.d = 0x40) (hsc : t.sc = 4) :
    runCycle 3 t = .next { t.writeWord t.ar (t.readWord t.ar + 1) with
      dr := t.readWord t.ar + 1
      pc := if t.readWord t.ar + 1 = 0 then t.pc + 1 else t.pc
      sc := 0 } := by
  have ht5 : { t with dr := t.readWord t.ar, sc := 5 }.Executing := ht.update
  have ht6 : { t with dr := t.readWord t.ar + 1, sc := 6 }.Executing := ht.update
  rw [ht.runCycle_read hsc (batch_isz_T4 hd hsc)]
  exact (ht5.runCycle_advance (batch_isz_T5 hd rfl) rfl (by simp) (k := 6) rfl 1).trans (ht6.runCycle_isz_T6 hd rfl 0)

end State.Executing

/-- From T3 on the ticks of a memory-reference word are its meaning, one class at a time (R160). -/
theorem runCycle_memory {i : Instr} (hf : i.family = .memoryReference) {s : State} (hq : s.q = []) (hs : s.s = true) :
    runCycle 4 (s.fetched (encode i)) = exec i s := by
  have hclass : opClassOf (encode i) = i.opClass := opClassOf_encode i
  have ht := addressed_executing hq hs (encode i)
  have hd : (s.addressed (encode i)).d = onehot8 i.opClass := by rw [addressed_d, hclass]
  have hT3 := tick_memory_T3 (hclass ▸ i.family_memory_iff.1 hf) hq hs
  rw [runCycle_of_next hT3 (by simp)]
  cases i <;> simp [Instr.family] at hf
  case and => exact ht.runCycle_and hd rfl
  case add => exact ht.runCycle_add hd rfl
  case lda => exact ht.runCycle_lda hd rfl
  case sta => exact ht.runCycle_sta hd rfl
  case bun => exact ht.runCycle_bun hd rfl
  case bsa => exact ht.runCycle_bsa hd rfl
  case isz => exact ht.runCycle_isz hd rfl

/-- Settles O13: T0 to T2 fetch and decode (`runCycle_fetch`), and the ticks from T3 on are the meaning of the word's
family. -/
theorem ticksOfACycleAreTheInstruction : Obligations.TicksOfACycleAreTheInstruction := by
  intro s hs
  have ⟨⟨_, hq, hrun, _⟩, _⟩ := hs
  have hword : s.readWord s.pc = encode (decode (s.readWord s.pc)) := (encode_decode _).symm
  rw [runCycle_fetch hs 4]
  generalize decode (s.readWord s.pc) = i at hword ⊢
  rw [hword]
  by_cases hf : i.family = .memoryReference
  · exact runCycle_memory hf hq hrun
  · exact runCycle_class7 hf hq hrun 3

end Sys2Proof.Machine
end

section
/-! PROOFS. What every instruction answers and leaves: the effective address (R137), completion or the refusal of a
write conflict (R142), the sampled request (R232) and the decoded word (R146). -/

namespace Sys2Proof.Machine

/-- Settles O22: both forms are `effectiveAddress` itself; the low 12 bits are the word modulo 4096, and a store to the
pointer cell is read back. -/
theorem effectiveAddressOfEveryForm : Obligations.EffectiveAddressOfEveryForm := by
  intro s a
  refine ⟨rfl, ?_, fun w => ?_⟩
  · simp [effectiveAddress, low12]
  · simp [effectiveAddress, low12]

/-- Settles O7: `step_of_atFetch`. -/
theorem stepRunsTheDecodedInstruction : Obligations.StepRunsTheDecodedInstruction := by
  rintro s _ hs rfl
  exact step_of_atFetch hs

/-- The batch of T3 has a write conflict just when the word is not well-defined (R142, R193): the fetch changes nothing
that the skips test. -/
theorem conflictFree_registerOps_fetched {i : Instr} (hf : i.family = .registerReference) (s : State) :
    conflictFree (registerOps i.low12 (s.fetched (encode i))) = completes i s := by
  rw [conflictFree_registerOps]
  simp only [completes, Instr.wellFormed, hf]
  rfl

theorem conflictFree_ioOps_fetched {i : Instr} (hf : i.family = .inputOutput) (s : State) :
    conflictFree (ioOps i.low12 (s.fetched (encode i))) = completes i s := by
  rw [conflictFree_ioOps]
  simp only [completes, Instr.wellFormed, hf]
  rfl

/-- Settles O45: format M always completes, and the other families do when the batch of T3 has no write conflict
(`conflictFree_registerOps_fetched`, `conflictFree_ioOps_fetched`). -/
theorem writeConflictsAreRefused : Obligations.WriteConflictsAreRefused := by
  intro i s
  cases hf : i.family with
  | memoryReference =>
    have hcompletes : completes i s = true := by simp [completes, Instr.wellFormed, hf]
    exact ⟨fun h => absurd hcompletes (by simp [h]), fun _ => exec_memory_next hf s⟩
  | registerReference =>
    rw [exec_register hf, ← conflictFree_registerOps_fetched hf]
    exact ⟨fun h => executeT3_of_conflict h _, fun h => ⟨_, executeT3_of_conflictFree h _⟩⟩
  | inputOutput =>
    rw [exec_io hf, ← conflictFree_ioOps_fetched hf]
    exact ⟨fun h => executeT3_of_conflict h _, fun h => ⟨_, executeT3_of_conflictFree h _⟩⟩

/-- Settles O50: format M samples the request at T3 (`State.addressed`), the other families in `executeT3`. -/
theorem everyInstructionSamplesTheRequest : Obligations.EveryInstructionSamplesTheRequest := by
  intro i s t h
  by_cases hf : i.family = .memoryReference
  · cases i <;> simp [Instr.family] at hf <;> obtain rfl := Host.Outcome.next.inj h <;> rfl
  · obtain ⟨ops, hexec, -⟩ := exec_class7 hf s
    rw [hexec] at h
    rw [(executeT3_next h).2]
    rfl

/-- Settles O54: format M writes IR, D and I in the fetch only, and T3 of the other families writes none of them, nor AR
(`exec_class7`). -/
theorem everyCycleEndsDecoded : Obligations.EveryCycleEndsDecoded := by
  intro i s t h
  refine ⟨exec_sc h, ?_⟩
  by_cases hf : i.family = .memoryReference
  · cases i <;> simp [Instr.family] at hf <;> obtain rfl := Host.Outcome.next.inj h <;>
      exact ⟨rfl, rfl, rfl, fun hne => absurd rfl hne⟩
  · obtain ⟨ops, hexec, -, hops⟩ := exec_class7 hf s
    rw [hexec] at h
    obtain ⟨-, rfl⟩ := executeT3_next h
    refine ⟨applyAll_ir (fun op hop => ?_) _, applyAll_d (fun op hop => ?_) _, applyAll_i (fun op hop => ?_) _,
      fun _ => applyAll_ar (fun op hop => ?_) _⟩ <;>
      obtain ⟨-, hir, hd, hi, har⟩ := hops op hop <;> assumption

end Sys2Proof.Machine
end

section
/-! PROOFS. The memory-reference instructions (R160-R167): the state each answers, and what AND, ADD, LDA and BUN, which
store nothing, and STA, BSA and ISZ, which store one cell, leave unchanged. -/

namespace Sys2Proof.Machine

/-! ### The state at T4, and the sum of ADD -/

/-- A memory-reference instruction enters T4 with everything R146 says of its cycle done but SC, AR holding the effective
address of its operands (R135-R137). -/
theorem addressed_encode (i : Instr) (s : State) : s.addressed (encode i) =
    { s.cycleDone (encode i) (onehot8 i.opClass) i.bit15 (effectiveAddress s i.bit15 i.low12) with sc := 4 } := by
  rw [← opClassOf_encode, ← indirectBitOf_encode, ← addressOf_encode]
  rfl

/-- 17 bits hold the sum of two words. -/
theorem sum17_toNat (x y : Word) : (sum17 x y).toNat = x.toNat + y.toNat := by
  simp [sum17]
  omega

/-- The low 16 bits of the 17-bit sum are the sum modulo 65536 (R162). -/
theorem addResult_eq_add (x y : Word) : addResult x y = x + y :=
  BitVec.eq_of_toNat_eq (by simp [addResult, sum17_toNat])

/-- Bit 16 of the 17-bit sum is its top bit, set from 65536 on (R162). -/
theorem addCarry_eq_decide (x y : Word) : addCarry x y = decide (65536 ≤ x.toNat + y.toNat) := by
  rw [← sum17_toNat]
  exact (BitVec.msb_eq_getLsbD_last _).symm.trans (BitVec.msb_eq_decide _)

/-- ISZ's incremented word is zero just when the word was 0xFFFF (R167). -/
theorem add_one_eq_zero_iff (v : Word) : v + 1 = 0 ↔ v = 0xFFFF := eq_neg_iff_add_eq_zero.symm

/-! ### The state each instruction answers -/

/-- Settles O23: `execAnd` from the state at T4. -/
theorem andOfMemoryAndAccumulator : Obligations.AndOfMemoryAndAccumulator := by
  intro ind a s ea
  simp only [exec, execAnd, addressed_encode]
  rfl

/-- Settles O24: `execAdd` from the state at T4, its 17-bit sum split into `addResult_eq_add` and `addCarry_eq_decide`. -/
theorem addWithCarryOut : Obligations.AddWithCarryOut := by
  intro ind a s ea
  simp only [exec, execAdd, addressed_encode, addResult_eq_add, addCarry_eq_decide]
  rfl

/-- Settles O25: `execLda` from the state at T4. -/
theorem loadAccumulator : Obligations.LoadAccumulator := by
  intro ind a s ea
  simp only [exec, execLda, addressed_encode]
  rfl

/-- Settles O26: `execSta` from the state at T4. -/
theorem storeAccumulator : Obligations.StoreAccumulator := by
  intro ind a s ea
  simp only [exec, execSta, addressed_encode]
  rfl

/-- Settles O27: `execBun` from the state at T4. -/
theorem branchUnconditionally : Obligations.BranchUnconditionally := by
  intro ind a s ea
  simp only [exec, execBun, addressed_encode]
  rfl

/-- Settles O28: `execBsa` from the state at T4, whose PC is already the return address. -/
theorem branchAndSaveReturnAddress : Obligations.BranchAndSaveReturnAddress := by
  intro ind a s ea
  simp only [exec, execBsa, addressed_encode]
  rfl

/-- Settles O29: `execIsz` from the state at T4; the skip adds 1 to a PC already incremented, and its test is
`add_one_eq_zero_iff`. -/
theorem incrementAndSkipIfZero : Obligations.IncrementAndSkipIfZero := by
  intro ind a s ea
  have hpc : s.pc + 2 = s.pc + 1 + 1 := (BitVec.add_assoc s.pc 1 1).symm
  rw [hpc]
  simp only [exec, execIsz, addressed_encode, add_one_eq_zero_iff]
  rfl

/-! ### Frames -/

/-- No memory-reference instruction writes OUTR or S (R160). -/
theorem exec_memory_outr_s {i : Instr} (hf : i.family = .memoryReference) {s t : State} (h : exec i s = .next t) :
    t.outr = s.outr ∧ t.s = s.s := by
  cases i <;> simp [Instr.family] at hf <;> obtain rfl := Host.Outcome.next.inj h <;> exact ⟨rfl, rfl⟩

/-- What every memory-reference instruction leaves unchanged (R160). -/
theorem exec_memory_frame {i : Instr} (hf : i.family = .memoryReference) {s t : State} (h : exec i s = .next t) :
    t.tr = s.tr ∧ t.inpr = s.inpr ∧ t.outr = s.outr ∧ t.ien = s.ien ∧ t.fgi = s.fgi ∧ t.fgo = s.fgo ∧ t.s = s.s ∧
      t.q = s.q ∧ t.startable = s.startable ∧ t.host = s.host := by
  obtain ⟨htr, hinpr, hq, hstartable, hhost⟩ := exec_frame h
  obtain ⟨hien, hfgi, hfgo⟩ := exec_flags_of_not_io (by simp [hf]) h
  obtain ⟨houtr, hs⟩ := exec_memory_outr_s hf h
  exact ⟨htr, hinpr, houtr, hien, hfgi, hfgo, hs, hq, hstartable, hhost⟩

/-- AND, ADD, LDA and BUN: memory is kept, E but by ADD, AC and DR by BUN (R161-R163, R165). -/
theorem exec_load {i : Instr} {ind : Bool} {a : Addr} {s t : State}
    (hi : i = .and ind a ∨ i = .add ind a ∨ i = .lda ind a ∨ i = .bun ind a) (h : exec i s = .next t) :
    t.mem = s.mem ∧ (i ≠ .add ind a → t.e = s.e) ∧ (i = .bun ind a → t.ac = s.ac ∧ t.dr = s.dr) := by
  rcases hi with rfl | rfl | rfl | rfl
  · rw [andOfMemoryAndAccumulator] at h
    obtain rfl := Host.Outcome.next.inj h
    exact ⟨rfl, fun _ => rfl, nofun⟩
  · rw [addWithCarryOut] at h
    obtain rfl := Host.Outcome.next.inj h
    exact ⟨rfl, fun hne => absurd rfl hne, nofun⟩
  · rw [loadAccumulator] at h
    obtain rfl := Host.Outcome.next.inj h
    exact ⟨rfl, fun _ => rfl, nofun⟩
  · rw [branchUnconditionally] at h
    obtain rfl := Host.Outcome.next.inj h
    exact ⟨rfl, fun _ => rfl, fun _ => ⟨rfl, rfl⟩⟩

/-- STA, BSA and ISZ: one store at the effective address, texts emptied; AC and E are kept, DR but by ISZ (R164, R166,
R167). -/
theorem exec_store {i : Instr} {ind : Bool} {a : Addr} {s t : State}
    (hi : i = .sta ind a ∨ i = .bsa ind a ∨ i = .isz ind a) (h : exec i s = .next t) :
    (∃ v, t.mem = s.mem.put (effectiveAddress s ind a).toNat ⟨v, [], []⟩) ∧ t.ac = s.ac ∧ t.e = s.e ∧
      (i ≠ .isz ind a → t.dr = s.dr) := by
  rcases hi with rfl | rfl | rfl
  · rw [storeAccumulator] at h
    obtain rfl := Host.Outcome.next.inj h
    exact ⟨⟨_, rfl⟩, rfl, rfl, fun _ => rfl⟩
  · rw [branchAndSaveReturnAddress] at h
    obtain rfl := Host.Outcome.next.inj h
    exact ⟨⟨_, rfl⟩, rfl, rfl, fun _ => rfl⟩
  · rw [incrementAndSkipIfZero] at h
    obtain rfl := Host.Outcome.next.inj h
    exact ⟨⟨_, rfl⟩, rfl, rfl, fun hne => absurd rfl hne⟩

/-- Settles O48: the family's frame, and the kept memory of `exec_load`. -/
theorem loadingInstructionsFrame : Obligations.LoadingInstructionsFrame := by
  intro i ind a s t hi h
  have hf : i.family = .memoryReference := by rcases hi with rfl | rfl | rfl | rfl <;> rfl
  obtain ⟨htr, hinpr, houtr, hien, hfgi, hfgo, hs, hq, hstartable, hhost⟩ := exec_memory_frame hf h
  obtain ⟨hmem, he, hbun⟩ := exec_load hi h
  exact ⟨fun _ => by rw [hmem], htr, hinpr, houtr, hien, hfgi, hfgo, hs, hq, hstartable, hhost, he, hbun⟩

/-- Settles O49: the family's frame, and what is read back after the store of `exec_store`. -/
theorem storingInstructionsFrame : Obligations.StoringInstructionsFrame := by
  intro i ind a s t hi h
  have hf : i.family = .memoryReference := by rcases hi with rfl | rfl | rfl <;> rfl
  obtain ⟨htr, hinpr, houtr, hien, hfgi, hfgo, hs, hq, hstartable, hhost⟩ := exec_memory_frame hf h
  obtain ⟨⟨v, hmem⟩, hac, he, hdr⟩ := exec_store hi h
  rw [hmem, Memory.find_put_same]
  exact ⟨fun _ hb => Memory.find_put_other _ _ hb, rfl, rfl, hac, he, htr, hinpr, houtr, hien, hfgi, hfgo, hs, hq,
    hstartable, hhost, hdr⟩

end Sys2Proof.Machine
end

section
/-! PROOFS. The register-reference instructions (R180-R193): the state a well-defined word answers, read off its batch one
register at a time, and from it what each of the twelve instructions does and what the family leaves unchanged. -/

namespace Sys2Proof.Machine

/-! ### A batch without a write conflict: every micro-operation in it takes effect (R127, R142) -/

/-- If only a micro-operation with the target of `op` changes the field `f`, and `op` sets it to `v`, the field is `v`
after a batch that holds `op`: without a write conflict nothing after `op` undoes it. -/
theorem applyAll_field_of_mem {α : Type} {f : State → α} {op : MicroOp} {v : α}
    {ops : List MicroOp} (hc : conflictFree ops = true) (hop : op ∈ ops) (hsc : op.target ≠ .sc)
    (hkeep : ∀ after : List MicroOp, (∀ o ∈ after, o.target ≠ op.target) → ∀ u, f (applyAll after u) = f u)
    (hset : ∀ u, f (op.apply u) = v) (s : State) : f (applyAll ops s) = v := by
  obtain ⟨before, after, rfl⟩ := List.append_of_mem hop
  rw [applyAll_append, applyAll_cons, hkeep after (fun o ho heq => ?_), hset]
  have hrest := conflictFree_of_sublist (List.sublist_append_right before (op :: after)) hc
  obtain ⟨x, y, rfl⟩ := List.append_of_mem ho
  exact hsc (commutes_of_conflictFree (before := op :: x) hrest op List.mem_cons_self heq.symm)

section
variable {ops : List MicroOp} (hc : conflictFree ops = true)
include hc

theorem applyAll_ac_of_mem {v : Word} (hv : .setAc v ∈ ops) (s : State) : (applyAll ops s).ac = v :=
  applyAll_field_of_mem hc hv nofun (fun _ => applyAll_ac) (fun _ => rfl) s

theorem applyAll_e_of_mem {v : Bool} (hv : .setE v ∈ ops) (s : State) : (applyAll ops s).e = v :=
  applyAll_field_of_mem hc hv nofun (fun _ => applyAll_e) (fun _ => rfl) s

theorem applyAll_pc_of_mem {v : Addr} (hv : .setPc v ∈ ops) (s : State) : (applyAll ops s).pc = v :=
  applyAll_field_of_mem hc hv nofun (fun _ => applyAll_pc) (fun _ => rfl) s

theorem applyAll_s_of_mem {v : Bool} (hv : .setS v ∈ ops) (s : State) : (applyAll ops s).s = v :=
  applyAll_field_of_mem hc hv nofun (fun _ => applyAll_s) (fun _ => rfl) s

end

theorem applyAll_ac_or (ops : List MicroOp) (s : State) :
    (applyAll ops s).ac = s.ac ∨ .setAc (applyAll ops s).ac ∈ ops :=
  applyAll_field_or (fun op _ => by cases op <;> first | exact .inl rfl | exact .inr rfl) ops s

theorem applyAll_pc_or (ops : List MicroOp) (s : State) :
    (applyAll ops s).pc = s.pc ∨ .setPc (applyAll ops s).pc ∈ ops :=
  applyAll_field_or (fun op _ => by cases op <;> first | exact .inl rfl | exact .inr rfl) ops s

theorem applyAll_s_or (ops : List MicroOp) (s : State) :
    (applyAll ops s).s = s.s ∨ .setS (applyAll ops s).s ∈ ops :=
  applyAll_field_or (fun op _ => by cases op <;> first | exact .inl rfl | exact .inr rfl) ops s

/-! ### The writes of a register-reference word, by its selector bits (R181-R192) -/

section
variable {sel : BitVec 12} {t : State}

/-- The micro-operations of a register-reference word, rule by rule. -/
theorem mem_registerOps {op : MicroOp} : op ∈ registerOps sel t ↔
    sel[11] = true ∧ op = .setAc 0 ∨
    sel[10] = true ∧ op = .setE false ∨
    sel[9] = true ∧ op = .setAc (~~~t.ac) ∨
    sel[8] = true ∧ op = .setE (!t.e) ∨
    sel[7] = true ∧ (op = .setAc (circulateRight t.e t.ac) ∨ op = .setE t.ac[0]) ∨
    sel[6] = true ∧ (op = .setAc (circulateLeft t.e t.ac) ∨ op = .setE t.ac[15]) ∨
    sel[5] = true ∧ op = .setAc (t.ac + 1) ∨
    ((sel[4] = true ∧ t.ac[15] = false ∨ sel[3] = true ∧ t.ac[15] = true ∨ sel[2] = true ∧ t.ac = 0 ∨
      sel[1] = true ∧ t.e = false) ∧ op = .setPc (t.pc + 1)) ∨
    sel[0] = true ∧ op = .setS false := by
  have hsna : op ∈ snaOps t ↔ t.ac[15] = true ∧ op = .setPc (t.pc + 1) := by
    unfold snaOps isNegative; split <;> simp [*]
  simp [registerOps, claOps, cleOps, cmaOps, cmeOps, cirOps, cilOps, incOps, spaOps, hsna, szaOps, szeOps, hltOps,
    circulateRightE, circulateLeftE, isNegative, isZero, or_and_right, and_assoc, or_assoc]

theorem setAc_mem_registerOps {v : Word} : .setAc v ∈ registerOps sel t ↔
    sel[11] = true ∧ v = 0 ∨ sel[9] = true ∧ v = ~~~t.ac ∨ sel[7] = true ∧ v = circulateRight t.e t.ac ∨
      sel[6] = true ∧ v = circulateLeft t.e t.ac ∨ sel[5] = true ∧ v = t.ac + 1 := by
  simp [mem_registerOps]

theorem setE_mem_registerOps {v : Bool} : .setE v ∈ registerOps sel t ↔
    sel[10] = true ∧ v = false ∨ sel[8] = true ∧ v = !t.e ∨ sel[7] = true ∧ v = t.ac[0] ∨
      sel[6] = true ∧ v = t.ac[15] := by
  simp [mem_registerOps]

theorem setS_mem_registerOps {v : Bool} : .setS v ∈ registerOps sel t ↔ sel[0] = true ∧ v = false := by
  simp [mem_registerOps]

theorem setPc_mem_registerOps {v : Addr} : .setPc v ∈ registerOps sel t ↔
    (sel[4] && !t.ac[15] || sel[3] && t.ac[15] || sel[2] && t.ac == 0 || sel[1] && !t.e) = true ∧
      v = t.pc + 1 := by
  simp [mem_registerOps, or_assoc]

end

/-! ### The registers after T3 of a well-defined word (R193) -/

theorem registerOps_target_ne {sel : BitVec 12} {t : State} {x : Target} (hx : x ∉ [.ac, .e, .pc, .s]) :
    ∀ op ∈ registerOps sel t, op.target ≠ x := by
  rintro op hop rfl
  exact hx (by simpa using registerOps_target hop)

/-- The rules of a register-reference word change AC, E, PC and S at most (R180). -/
theorem applyAll_registerOps_frame (sel : BitVec 12) (t : State) : applyAll (registerOps sel t) t =
    { t with
      ac := (applyAll (registerOps sel t) t).ac
      e := (applyAll (registerOps sel t) t).e
      pc := (applyAll (registerOps sel t) t).pc
      s := (applyAll (registerOps sel t) t).s } :=
  State.ext_fields rfl (applyAll_ar (registerOps_target_ne (by simp)) t)
    (applyAll_ir (registerOps_target_ne (by simp)) t) (applyAll_dr (registerOps_target_ne (by simp)) t) rfl
    (applyAll_tr (registerOps_target_ne (by simp)) t) (applyAll_inpr _ t)
    (applyAll_outr (registerOps_target_ne (by simp)) t) (applyAll_i (registerOps_target_ne (by simp)) t)
    (applyAll_r (registerOps_target_ne (by simp)) t) (applyAll_ien (registerOps_target_ne (by simp)) t) rfl
    (applyAll_fgi (registerOps_target_ne (by simp)) t) (applyAll_fgo (registerOps_target_ne (by simp)) t) rfl
    (applyAll_d (registerOps_target_ne (by simp)) t) (applyAll_sc (registerOps_target_ne (by simp)) t) (applyAll_q _ t)
    (applyAll_mem (fun op hop a => registerOps_target_ne (by simp) op hop) t) (applyAll_startable _ t)
    (applyAll_host _ t)

/-- E in bit 15 (R185). -/
theorem circulateRight_eq (e : Bool) (ac : Word) :
    circulateRight e ac = (if e then 0x8000 else 0) ||| ac >>> 1 := by
  cases e <;> rfl

/-- E in bit 0 (R186). -/
theorem circulateLeft_eq (e : Bool) (ac : Word) : circulateLeft e ac = ac <<< 1 ||| (if e then 1 else 0) := by
  cases e <;> rfl

section
variable {sel : BitVec 12} {t : State} (hc : conflictFree (registerOps sel t) = true)
include hc

theorem applyAll_registerOps_ac : (applyAll (registerOps sel t) t).ac =
    if sel[11] then (0 : Word)
    else if sel[9] then ~~~t.ac
    else if sel[7] then (if t.e then 0x8000 else 0) ||| t.ac >>> 1
    else if sel[6] then t.ac <<< 1 ||| (if t.e then 1 else 0)
    else if sel[5] then t.ac + 1
    else t.ac := by
  rw [← circulateRight_eq, ← circulateLeft_eq]
  split_ifs with h11 h9 h7 h6 h5
  case neg => exact (applyAll_ac_or _ t).resolve_right (by simp [setAc_mem_registerOps, *])
  all_goals exact applyAll_ac_of_mem hc (by simp [setAc_mem_registerOps, *]) t

theorem applyAll_registerOps_e : (applyAll (registerOps sel t) t).e =
    if sel[10] then false
    else if sel[8] then !t.e
    else if sel[7] then t.ac[0]
    else if sel[6] then t.ac[15]
    else t.e := by
  split_ifs with h10 h8 h7 h6
  case neg => exact (applyAll_e_or _ t).resolve_right (by simp [setE_mem_registerOps, *])
  all_goals exact applyAll_e_of_mem hc (by simp [setE_mem_registerOps, *]) t

theorem applyAll_registerOps_pc : (applyAll (registerOps sel t) t).pc =
    if (sel[4] && !t.ac[15]) || (sel[3] && t.ac[15]) || (sel[2] && t.ac == 0) || (sel[1] && !t.e) then t.pc + 1
    else t.pc := by
  split_ifs with hskip
  · exact applyAll_pc_of_mem hc (setPc_mem_registerOps.2 ⟨hskip, rfl⟩) t
  · exact (applyAll_pc_or _ t).resolve_right fun h => hskip (setPc_mem_registerOps.1 h).1

theorem applyAll_registerOps_s : (applyAll (registerOps sel t) t).s = (t.s && !sel[0]) := by
  cases h0 : sel[0] with
  | true => simpa using applyAll_s_of_mem hc (setS_mem_registerOps.2 ⟨h0, rfl⟩) t
  | false => simpa using (applyAll_s_or _ t).resolve_right (by simp [setS_mem_registerOps, h0])

end

/-- The fetch has done everything R146 says of the cycle but SC and the request. -/
theorem fetched_encode (i : Instr) (s : State) : s.fetched (encode i) =
    { s.cycleDone (encode i) (onehot8 i.opClass) i.bit15 i.low12 with sc := 3, r := s.r } := by
  rw [← opClassOf_encode, ← indirectBitOf_encode, ← addressOf_encode]
  rfl

/-- Settles O43: the batch of a well-defined word has no write conflict, so each of the four registers its rules write is
what the one selected rule writes (`applyAll_registerOps_ac` to `applyAll_registerOps_s`). -/
theorem registerWordEffect : Obligations.RegisterWordEffect := by
  intro i s hf hc sel
  obtain ⟨hclass, hbit⟩ := i.family_register_iff.1 hf
  have hcf := conflictFree_registerOps_fetched hf s ▸ hc
  rw [exec_register hf, executeT3_of_conflictFree hcf, applyAll_registerOps_frame, applyAll_registerOps_ac hcf,
    applyAll_registerOps_e hcf, applyAll_registerOps_pc hcf, applyAll_registerOps_s hcf]
  have hpc : s.pc + 2 = s.pc + 1 + 1 := (BitVec.add_assoc s.pc 1 1).symm
  rw [fetched_encode, hclass, hbit, hpc]
  rfl

/-- A register-reference instruction that completes is well-defined (R142). -/
theorem completes_of_next {i : Instr} {s t : State} (h : exec i s = .next t) : completes i s = true := by
  by_contra hc
  rw [(writeConflictsAreRefused i s).1 (by simpa using hc)] at h
  cases h

/-- Settles O46: the next state of `registerWordEffect`, whose AC, E and S are the old ones without the selectors named. -/
theorem registerReferenceFrame : Obligations.RegisterReferenceFrame := by
  intro i s t hf h
  rw [registerWordEffect i s hf (completes_of_next h)] at h
  obtain rfl := Host.Outcome.next.inj h
  refine ⟨fun _ => rfl, rfl, rfl, rfl, rfl, rfl, rfl, rfl, rfl, rfl, rfl, ?_, ?_, ?_⟩
  · intro h11 h9 h7 h6 h5
    simp [h11, h9, h7, h6, h5]
  · intro h10 h8 h7 h6
    simp [h10, h8, h7, h6]
  · intro h0
    simp [h0]

/-! ### The twelve instructions (R181-R192) -/

/-- A word with no selector bit beside its row's has nothing to conflict with (R86, R193, R218). -/
theorem completes_of_canonical {i : Instr} (hi : i.canonical = true) (s : State) : completes i s = true := by
  have hone (p : Prop) [Decidable p] : (if p then 1 else 0) ≤ 1 := by split <;> decide
  cases i <;> simp [Instr.canonical] at hi <;> subst_vars <;>
    simp [completes, Instr.wellFormed, Instr.family, Instr.low12, oneAcWriter, oneEWriter, oneIenWriter, skipsTaken,
      ioSkipsTaken, List.count_cons, hone]

/-- Settles O30: with CLA's selector, the first of AC's writers, `registerWordEffect` gives AC = 0. -/
theorem claClearsTheAccumulator : Obligations.ClaClearsTheAccumulator := by
  refine ⟨rfl, fun s => (registerWordEffect _ s rfl (completes_of_canonical rfl s)).trans ?_,
    fun more s hc => ⟨_, registerWordEffect _ s rfl hc, ?_⟩⟩
  · simp [Instr.low12, encode, combine, State.cycleDone]
  · simp [Instr.low12]

/-- Settles O31: E of `registerWordEffect`; a word of CME's row has CLE's selector clear. -/
theorem cleAndCmeWriteCarry : Obligations.CleAndCmeWriteCarry := by
  refine ⟨rfl, fun s => (registerWordEffect _ s rfl (completes_of_canonical rfl s)).trans ?cle,
    fun more s hc => ⟨_, registerWordEffect _ s rfl hc, ?cleMore⟩,
    rfl, fun s => (registerWordEffect _ s rfl (completes_of_canonical rfl s)).trans ?cme,
    fun more s hc => ⟨_, registerWordEffect _ s rfl hc, ?cmeMore⟩⟩
  case cle | cme => simp [Instr.low12, encode, combine, State.cycleDone]
  case cleMore | cmeMore => simp [Instr.low12]

/-- Settles O32: AC of `registerWordEffect`; the one's complement is the difference from 0xFFFF. -/
theorem cmaComplementsTheAccumulator : Obligations.CmaComplementsTheAccumulator := by
  have hnot (v : Word) : 0xFFFF - v = ~~~v := BitVec.allOnes_sub_eq_not v
  simp only [Obligations.CmaComplementsTheAccumulator, hnot]
  refine ⟨rfl, fun s => (registerWordEffect _ s rfl (completes_of_canonical rfl s)).trans ?_,
    fun more s hc => ⟨_, registerWordEffect _ s rfl hc, ?_⟩⟩
  · simp [Instr.low12, encode, combine, State.cycleDone]
  · simp [Instr.low12]

/-- Settles O33: AC and E of `registerWordEffect`; a word of CIR's or CIL's row has the selectors before its own clear. -/
theorem cirAndCilRotateThroughCarry : Obligations.CirAndCilRotateThroughCarry := by
  refine ⟨rfl, fun s => (registerWordEffect _ s rfl (completes_of_canonical rfl s)).trans ?cir,
    fun more s hc => ⟨_, registerWordEffect _ s rfl hc, ?cirMore⟩,
    rfl, fun s => (registerWordEffect _ s rfl (completes_of_canonical rfl s)).trans ?cil,
    fun more s hc => ⟨_, registerWordEffect _ s rfl hc, ?cilMore⟩⟩
  case cir | cil => simp [Instr.low12, encode, combine, State.cycleDone]
  case cirMore | cilMore => simp [Instr.low12]

/-- Settles O34: AC of `registerWordEffect`; a word of INC's row has the selectors of AC's other writers clear. -/
theorem incIncrementsTheAccumulator : Obligations.IncIncrementsTheAccumulator := by
  refine ⟨rfl, fun s => (registerWordEffect _ s rfl (completes_of_canonical rfl s)).trans ?_,
    fun more s hc => ⟨_, registerWordEffect _ s rfl hc, ?_⟩⟩
  · simp [Instr.low12, encode, combine, State.cycleDone]
  · simp [Instr.low12]

/-- Settles O35: PC of `registerWordEffect`, whose skip condition the test of either instruction makes true. -/
theorem spaAndSnaSkipOnTheSign : Obligations.SpaAndSnaSkipOnTheSign := by
  refine ⟨rfl, fun s => (registerWordEffect _ s rfl (completes_of_canonical rfl s)).trans ?spa,
    fun more s hc => ⟨_, registerWordEffect _ s rfl hc, fun htest => ?spaMore⟩,
    rfl, fun s => (registerWordEffect _ s rfl (completes_of_canonical rfl s)).trans ?sna,
    fun more s hc => ⟨_, registerWordEffect _ s rfl hc, fun htest => ?snaMore⟩⟩
  case spa | sna => simp [Instr.low12, encode, combine, State.cycleDone]
  case spaMore | snaMore => simp [Instr.low12, htest]

/-- Settles O36: PC of `registerWordEffect`, whose skip condition the test of either instruction makes true. -/
theorem szaAndSzeSkipOnZero : Obligations.SzaAndSzeSkipOnZero := by
  refine ⟨rfl, fun s => (registerWordEffect _ s rfl (completes_of_canonical rfl s)).trans ?sza,
    fun more s hc => ⟨_, registerWordEffect _ s rfl hc, fun htest => ?szaMore⟩,
    rfl, fun s => (registerWordEffect _ s rfl (completes_of_canonical rfl s)).trans ?sze,
    fun more s hc => ⟨_, registerWordEffect _ s rfl hc, fun htest => ?szeMore⟩⟩
  case sza | sze => simp [Instr.low12, encode, combine, State.cycleDone]
  case szaMore | szeMore => simp [Instr.low12, htest]

/-- The rules of an input-output word do not write S (R210). -/
theorem exec_io_s {i : Instr} (hf : i.family = .inputOutput) {s t : State} (h : exec i s = .next t) : t.s = s.s := by
  obtain rfl := exec_io_next hf h
  exact applyAll_s (fun op hop => by rcases ioOps_target hop with h | h | h | h | h | h <;> simp [h]) _

/-- Settles O37, by family: format M and the input-output words keep S, and a register-reference word clears it under
selector bit 0 alone (`registerWordEffect`). -/
theorem hltClearsTheRunFlag : Obligations.HltClearsTheRunFlag := by
  refine ⟨rfl, fun s => (registerWordEffect _ s rfl (completes_of_canonical rfl s)).trans ?_, fun i s t h hs => ?_⟩
  · simp [Instr.low12, encode, State.cycleDone]
  · cases hf : i.family with
    | memoryReference => simp [exec_memory_outr_s hf h, hs]
    | registerReference =>
      rw [registerWordEffect i s hf (completes_of_next h)] at h
      obtain rfl := Host.Outcome.next.inj h
      simp [hs]
    | inputOutput => simp [exec_io_s hf h, hs]

end Sys2Proof.Machine
end

section
/-! PROOFS. The input-output instructions (R210-R218): the state a well-defined word answers, its rules applied one
after another, and from it what each of the six instructions does and what the family leaves unchanged. -/

namespace Sys2Proof.Machine

/-! ### One rule under its selector bit (R211-R216) -/

section
variable (b : Bool) (t u : State)

theorem applyAll_if_inpOps : applyAll (if b then inpOps t else []) u =
    { u with ac := if b then withLowByte t.ac t.inpr else u.ac, fgi := u.fgi && !b } := by
  cases b <;> simp [inpOps, MicroOp.apply]

theorem applyAll_if_outOps : applyAll (if b then outOps t else []) u =
    { u with outr := if b then t.ac.extractLsb' 0 8 else u.outr, fgo := u.fgo && !b } := by
  cases b <;> simp [outOps, MicroOp.apply]

theorem applyAll_if_skiOps : applyAll (if b then skiOps t else []) u =
    { u with pc := if b && t.fgi then t.pc + 1 else u.pc } := by
  cases b <;> cases h : t.fgi <;> simp [skiOps, MicroOp.apply, h]

theorem applyAll_if_skoOps : applyAll (if b then skoOps t else []) u =
    { u with pc := if b && t.fgo then t.pc + 1 else u.pc } := by
  cases b <;> cases h : t.fgo <;> simp [skoOps, MicroOp.apply, h]

theorem applyAll_if_ionOps : applyAll (if b then ionOps t else []) u = { u with ien := u.ien || b } := by
  cases b <;> simp [ionOps, MicroOp.apply]

theorem applyAll_if_iofOps : applyAll (if b then iofOps t else []) u = { u with ien := u.ien && !b } := by
  cases b <;> simp [iofOps, MicroOp.apply]

end

/-! ### The state a word answers (R218) -/

/-- Where not both ION and IOF are selected, it does not matter which of them comes last (R218). -/
theorem ien_of_oneIenWriter {sel : BitVec 12} (h : oneIenWriter sel = true) (ien : Bool) :
    ((ien || sel[7]) && !sel[6]) = if sel[7] then true else if sel[6] then false else ien := by
  cases h7 : sel[7] with
  | true =>
    have h6 : sel[6] = false := by simpa [oneIenWriter, h7] using h
    simp [h6]
  | false => cases sel[6] <;> simp

/-- The rules of an input-output word, applied one after another: two skips write the same PC, and ION and IOF are not
both selected. -/
theorem applyAll_ioOps {sel : BitVec 12} (h : oneIenWriter sel = true) (t : State) : applyAll (ioOps sel t) t =
    { t with
      ac := if sel[11] then withLowByte t.ac t.inpr else t.ac
      fgi := t.fgi && !sel[11]
      outr := if sel[10] then t.ac.extractLsb' 0 8 else t.outr
      fgo := t.fgo && !sel[10]
      pc := if (sel[9] && t.fgi) || (sel[8] && t.fgo) then t.pc + 1 else t.pc
      ien := if sel[7] then true else if sel[6] then false else t.ien } := by
  simp only [ioOps, applyAll_append, applyAll_if_inpOps, applyAll_if_outOps, applyAll_if_skiOps, applyAll_if_skoOps,
    applyAll_if_ionOps, applyAll_if_iofOps, ien_of_oneIenWriter h,
    Bool.or_comm (sel[9] && t.fgi), Bool.or_eq_true, ite_or]

/-- A well-defined input-output word does not select both ION and IOF (R218). -/
theorem oneIenWriter_of_completes {i : Instr} (hf : i.family = .inputOutput) {s : State} (hc : completes i s = true) :
    oneIenWriter i.low12 = true := by
  simp only [completes, Instr.wellFormed, hf, Bool.and_eq_true] at hc
  exact hc.1

/-- Settles O44: the batch of a well-defined word has no write conflict, so it answers the state of `applyAll_ioOps`. -/
theorem inputOutputWordEffect : Obligations.InputOutputWordEffect := by
  intro i s hf hc sel
  obtain ⟨hclass, hbit⟩ := i.family_io_iff.1 hf
  have hcf := conflictFree_ioOps_fetched hf s ▸ hc
  have hpc : s.pc + 2 = s.pc + 1 + 1 := (BitVec.add_assoc s.pc 1 1).symm
  rw [exec_io hf, executeT3_of_conflictFree hcf, applyAll_ioOps (oneIenWriter_of_completes hf hc), fetched_encode,
    hclass, hbit, hpc]
  rfl

/-- Settles O47: the next state of `inputOutputWordEffect`, whose AC, OUTR, FGI, FGO and IEN are the old ones without
the selectors named. -/
theorem inputOutputFrame : Obligations.InputOutputFrame := by
  intro i s t hf h
  rw [inputOutputWordEffect i s hf (completes_of_next h)] at h
  obtain rfl := Host.Outcome.next.inj h
  refine ⟨fun _ => rfl, rfl, rfl, rfl, rfl, rfl, rfl, rfl, rfl, ?_, ?_, ?_⟩
  · intro h11
    simp [h11]
  · intro h10
    simp [h10]
  · intro h7 h6
    simp [h7, h6]

/-! ### The six instructions (R211-R216) -/

/-- Settles O39: AC and FGI of `inputOutputWordEffect` with INP's selector. -/
theorem inpTakesTheInputCharacter : Obligations.InpTakesTheInputCharacter := by
  refine ⟨rfl, fun s => (inputOutputWordEffect _ s rfl (completes_of_canonical rfl s)).trans ?_,
    fun more s hc => ⟨_, inputOutputWordEffect _ s rfl hc, ?_⟩⟩
  · simp [Instr.low12, encode, combine, State.cycleDone]
  · simp [Instr.low12]

/-- Settles O40: OUTR and FGO of `inputOutputWordEffect` with OUT's selector. -/
theorem outPresentsTheOutputCharacter : Obligations.OutPresentsTheOutputCharacter := by
  refine ⟨rfl, fun s => (inputOutputWordEffect _ s rfl (completes_of_canonical rfl s)).trans ?_,
    fun more s hc => ⟨_, inputOutputWordEffect _ s rfl hc, ?_⟩⟩
  · simp [Instr.low12, encode, combine, State.cycleDone]
  · simp [Instr.low12]

/-- Settles O41: PC of `inputOutputWordEffect`, whose skip condition the flag of either instruction makes true. -/
theorem skiAndSkoSkipOnTheFlags : Obligations.SkiAndSkoSkipOnTheFlags := by
  refine ⟨rfl, fun s => (inputOutputWordEffect _ s rfl (completes_of_canonical rfl s)).trans ?ski,
    fun more s hc => ⟨_, inputOutputWordEffect _ s rfl hc, fun hflag => ?skiMore⟩,
    rfl, fun s => (inputOutputWordEffect _ s rfl (completes_of_canonical rfl s)).trans ?sko,
    fun more s hc => ⟨_, inputOutputWordEffect _ s rfl hc, fun hflag => ?skoMore⟩⟩
  case ski | sko => simp [Instr.low12, encode, combine, State.cycleDone]
  case skiMore | skoMore => simp [Instr.low12, hflag]

/-- Settles O42: IEN of `inputOutputWordEffect`; a word of IOF's row has ION's selector clear. -/
theorem ionAndIofWriteInterruptEnable : Obligations.IonAndIofWriteInterruptEnable := by
  refine ⟨rfl, fun s => (inputOutputWordEffect _ s rfl (completes_of_canonical rfl s)).trans ?ion,
    fun more s hc => ⟨_, inputOutputWordEffect _ s rfl hc, ?ionMore⟩,
    rfl, fun s => (inputOutputWordEffect _ s rfl (completes_of_canonical rfl s)).trans ?iof,
    fun more s hc => ⟨_, inputOutputWordEffect _ s rfl hc, ?iofMore⟩⟩
  case ion | iof => simp [Instr.low12, encode, combine, State.cycleDone]
  case ionMore | iofMore => simp [Instr.low12]

end Sys2Proof.Machine
end

section
/-! PROOFS. The interrupt cycle: its step (R236), its three ticks (R233-R235) and the return from the handler (R239). -/

namespace Sys2Proof.Machine

/-! ### The step and the return -/

/-- At the start of a cycle with R = 1 a step is the interrupt cycle (R236). -/
theorem step_of_interrupt {s : State} (hs : s.AtCycleStart) (hr : s.r = true) : step s = .next (interruptCycle s) := by
  obtain ⟨hhost, hq, hrun, hsc⟩ := hs
  simp [step, hhost, hq, hrun, hsc, hr]

/-- Settles O9: the step is `interruptCycle`, whose one store is to address 0. -/
theorem interruptCycleEntersTheHandler : Obligations.InterruptCycleEntersTheHandler := fun s hs hr =>
  ⟨interruptCycle s, step_of_interrupt hs hr, rfl, Memory.find_put_same s.mem 0 _,
    fun _ ha => Memory.find_put_other s.mem _ ha⟩

/-- An address survives the way through a word (R65). -/
theorem low12_zext16 (a : Addr) : low12 (zext16 a) = a := by
  simp [low12, zext16, ← BitVec.setWidth_eq_extractLsb']

theorem interruptCycle_readWord_zero (s : State) : (interruptCycle s).readWord 0 = zext16 s.pc :=
  readWord_writeWord_same s 0 (zext16 s.pc)

/-- Settles O10: the effective address of `BUN 0 I` is the low half of the saved word, which is the saved PC. -/
theorem indirectBranchReturnsFromInterrupt : Obligations.IndirectBranchReturnsFromInterrupt := by
  intro s t h
  refine ⟨_, branchUnconditionally true 0 t, ?_⟩
  calc effectiveAddress t true 0
      _ = low12 (t.readWord 0) := rfl
      _ = low12 (zext16 s.pc) := by rw [h, interruptCycle_readWord_zero]
      _ = s.pc := low12_zext16 s.pc

/-! ### The ticks (R233-R235) -/

section
variable {s : State} (hq : s.q = []) (hs : s.s = true) (hr : s.r = true)
include hq hs hr

theorem tick_INT0 (hsc : s.sc = 0) : tick s = .next { s with ar := 0, tr := zext16 s.pc, sc := 1 } :=
  tick_of_batch_advance hq hs (batch_INT0 hr hsc) rfl (by simp) (hsc ▸ rfl)

theorem tick_INT1 (hsc : s.sc = 1) : tick s = .next { s.writeWord s.ar s.tr with pc := 0, sc := 2 } :=
  tick_of_batch_advance hq hs (batch_INT1 hr hsc) rfl (by simp) (hsc ▸ rfl)

theorem tick_INT2 (hsc : s.sc = 2) : tick s = .next { s with pc := s.pc + 1, ien := false, r := false, sc := 0 } := by
  have hb := batch_INT2 hr hsc
  have h := tick_of_clear hq hs (hb ▸ rfl) (by simp [hb])
  rwa [hb] at h

end

/-! ### The ticks of a cycle, counted (R285) -/

theorem ticksToCycleEnd_of_next {s t : State} (h : tick s = .next t) (hsc : t.sc ≠ 0) {n k : Nat}
    (ht : ticksToCycleEnd n t = some k) : ticksToCycleEnd (n + 1) s = some (k + 1) := by
  simp [ticksToCycleEnd, h, hsc, ht]

theorem ticksToCycleEnd_of_end {s t : State} (h : tick s = .next t) (hsc : t.sc = 0) (n : Nat) :
    ticksToCycleEnd (n + 1) s = some 1 := by
  simp [ticksToCycleEnd, h, hsc]

/-- Settles O14: INT0 saves PC in TR, INT1 stores it at address 0 and INT2 ends the cycle at address 1. -/
theorem ticksOfTheInterruptCycle : Obligations.TicksOfTheInterruptCycle := by
  rintro s ⟨-, hq, hrun, hsc⟩ hr
  have hT0 := tick_INT0 hq hrun hr hsc
  have hT1 := tick_INT1 (s := { s with ar := 0, tr := zext16 s.pc, sc := 1 }) hq hrun hr rfl
  have hT2 := tick_INT2
    (s := { s.writeWord 0 (zext16 s.pc) with ar := 0, tr := zext16 s.pc, pc := 0, sc := 2 }) hq hrun hr rfl
  constructor
  · rw [runCycle_of_next hT0 (by simp), runCycle_of_next hT1 (by simp)]
    exact runCycle_of_end hT2 rfl 4
  · have h2 := ticksToCycleEnd_of_end hT2 rfl 4
    have h1 := ticksToCycleEnd_of_next hT1 (by simp) h2
    exact ticksToCycleEnd_of_next hT0 (by simp) h1

end Sys2Proof.Machine
end

section
/-! PROOFS. What the host does and asks between ticks: the devices (R252, R253) and the breakpoint predicates (R258,
R259). -/

namespace Sys2Proof.Machine

/-! ### Devices -/

/-- A number that fits the register is loaded as it is (R21). -/
theorem loadChecked_of_lt {width n : Nat} (h : n < 2 ^ width) : loadChecked width n = .ok (BitVec.ofNat width n) :=
  if_pos h

/-- A number that does not fit is a contract violation (R246). -/
theorem loadChecked_of_ge {width n : Nat} (h : 2 ^ width ≤ n) : loadChecked width n = .error .valueOutOfRange :=
  if_neg (Nat.not_lt.2 h)

/-- Settles O55: the range check of `loadChecked` decides what Input does. -/
theorem inputAndOutputReadySetTheirFlags : Obligations.InputAndOutputReadySetTheirFlags := by
  intro s hq
  refine ⟨fun c hc => ⟨BitVec.ofNat 8 c, Nat.mod_eq_of_lt hc, ?_⟩, fun c hc => ?_, ?_⟩
  · simp [hostAct, input, hq, loadChecked_of_lt (width := 8) hc]
  · simp [hostAct, input, hq, loadChecked_of_ge (width := 8) hc]
  · simp [hostAct, outputReady, hq]

/-! ### Breakpoint predicates -/

theorem pcInRange_iff (lo hi : Nat) (s : State) :
    pcInRange lo hi s = true ↔ lo ≤ s.pc.toNat ∧ s.pc.toNat < hi := by
  simp [pcInRange]

/-- A label that is not found points nowhere (R258). -/
theorem pointsAtPc_iff (resolved : Option Nat) (s : State) :
    pointsAtPc resolved s = true ↔ ∃ a, resolved = some a ∧ (s.mem.find a).value.toNat = s.pc.toNat := by
  cases resolved <;> simp [pointsAtPc]

/-- AND that skips its right side has the value of the boolean AND (R259). -/
theorem shouldBreak_and (labels : List Label) (b c : Breakpoint) (s : State) :
    shouldBreak labels (.and b c) s = (shouldBreak labels b s && shouldBreak labels c s) := by
  cases h : (b.eval labels s).1 <;> simp [shouldBreak, Breakpoint.eval, h]

/-- Settles O60: the ranges are `pcInRange`, the indirect label `pointsAtPc`, AND `shouldBreak_and`; the other
predicates are their definitions. -/
theorem breakpointRangesAreHalfOpen : Obligations.BreakpointRangesAreHalfOpen := by
  intro labels s lo hi name b c
  exact ⟨pcInRange_iff lo hi s, rfl, beq_iff_eq, pointsAtPc_iff (labelAddress labels name) s,
    shouldBreak_and labels b c s, rfl, rfl⟩

end Sys2Proof.Machine
end

section
/-! PROOFS. How many ticks an instruction cycle takes (R285): SC is not 0 after `k` ticks and is 0 after one more, read
off the runs of ticks that compute the instruction's meaning. -/

namespace Sys2Proof.Machine

/-! ### Counting along a run -/

theorem runCycle_one (s : State) : runCycle 1 s = tick s := by
  cases h : tick s <;> simp [runCycle, h]

/-- `k` ticks that leave the machine within the cycle are counted before those that remain. -/
theorem ticksToCycleEnd_add {k n c : Nat} {s u : State} (h : runCycle k s = .next u) (hsc : u.sc ≠ 0)
    (hc : ticksToCycleEnd n u = some c) : ticksToCycleEnd (n + k) s = some (c + k) := by
  induction k generalizing s with
  | zero => exact Host.Outcome.next.inj h ▸ hc
  | succ k ih =>
    unfold runCycle at h
    cases ht : tick s with
    | next t =>
      simp only [ht] at h
      split_ifs at h with h0
      · exact absurd (Host.Outcome.next.inj h ▸ h0) hsc
      · exact ticksToCycleEnd_of_next ht h0 (ih h)
    | fault f => simp [ht] at h
    | refused r => simp [ht] at h

/-- The tick that ends the cycle is the only one left. -/
theorem ticksToCycleEnd_last {s t : State} (h : runCycle 1 s = .next t) (hsc : t.sc = 0) (n : Nat) :
    ticksToCycleEnd (n + 1) s = some 1 :=
  ticksToCycleEnd_of_end (runCycle_one s ▸ h) hsc n

/-! ### From T4 to the end, by class (R161-R167) -/

namespace State.Executing

variable {t : State} {ops : List MicroOp} {n c : Nat}

theorem ticksToCycleEnd_clear (ht : t.Executing) (hb : batch t = irqOps t ++ ops)
    (hc : conflictFree (.setR true :: ops) = true) (hm : MicroOp.clearSc ∈ ops) (n : Nat) :
    ticksToCycleEnd (n + 1) t = some 1 :=
  ticksToCycleEnd_last (ht.runCycle_clear hb hc hm 0) rfl n

theorem ticksToCycleEnd_advance (ht : t.Executing) (hb : batch t = irqOps t ++ ops)
    (hc : conflictFree (.setR true :: ops) = true) (hm : MicroOp.clearSc ∉ ops) {k : Fin 7} (hk0 : k ≠ 0)
    (hk : advanceSc t.sc = some k) (hcount : ticksToCycleEnd n { applyAll ops t with sc := k } = some c) :
    ticksToCycleEnd (n + 1) t = some (c + 1) :=
  ticksToCycleEnd_add (ht.runCycle_advance hb hc hm hk 0) hk0 hcount

/-- AND, ADD, LDA and BSA end in T5. -/
theorem ticksToCycleEnd_T5 (ht : t.Executing) (hd : t.d = 0x01 ∨ t.d = 0x02 ∨ t.d = 0x04 ∨ t.d = 0x20)
    (hsc : t.sc = 5) (n : Nat) : ticksToCycleEnd (n + 1) t = some 1 := by
  rcases hd with hd | hd | hd | hd
  · exact ht.ticksToCycleEnd_clear (batch_and_T5 hd hsc) rfl (by simp) n
  · exact ht.ticksToCycleEnd_clear (batch_add_T5 hd hsc) rfl (by simp) n
  · exact ht.ticksToCycleEnd_clear (batch_lda_T5 hd hsc) rfl (by simp) n
  · exact ht.ticksToCycleEnd_clear (batch_bsa_T5 hd hsc) rfl (by simp) n

/-- From T4 these four take two ticks: none of their T4 rules clears SC or writes D. -/
theorem ticksToCycleEnd_T4 (ht : t.Executing) (hd : t.d = 0x01 ∨ t.d = 0x02 ∨ t.d = 0x04 ∨ t.d = 0x20)
    (hsc : t.sc = 4) : ticksToCycleEnd 3 t = some 2 := by
  have ht5 : { t with dr := t.readWord t.ar, sc := 5 }.Executing := ht.update
  have hbsa5 : { t.writeWord t.ar (zext16 t.pc) with ar := t.ar + 1, sc := 5 }.Executing := ht.update
  have hread := ht5.ticksToCycleEnd_T5 hd rfl 1
  have hbsa := hbsa5.ticksToCycleEnd_T5 hd rfl 1
  rcases hd with hd | hd | hd | hd
  · exact ht.ticksToCycleEnd_advance (batch_and_T4 hd hsc) rfl (by simp) (by decide) (hsc ▸ rfl) hread
  · exact ht.ticksToCycleEnd_advance (batch_add_T4 hd hsc) rfl (by simp) (by decide) (hsc ▸ rfl) hread
  · exact ht.ticksToCycleEnd_advance (batch_lda_T4 hd hsc) rfl (by simp) (by decide) (hsc ▸ rfl) hread
  · exact ht.ticksToCycleEnd_advance (batch_bsa_T4 hd hsc) rfl (by simp) (k := 5) (by decide) (hsc ▸ rfl) hbsa

theorem ticksToCycleEnd_isz (ht : t.Executing) (hd : t.d = 0x40) (hsc : t.sc = 4) : ticksToCycleEnd 3 t = some 3 := by
  have ht5 : { t with dr := t.readWord t.ar, sc := 5 }.Executing := ht.update
  have ht6 : { t with dr := t.readWord t.ar + 1, sc := 6 }.Executing := ht.update
  have hT6 := ticksToCycleEnd_last (ht6.runCycle_isz_T6 hd rfl 0) rfl 0
  have hT5 := ht5.ticksToCycleEnd_advance (batch_isz_T5 hd rfl) rfl (by simp) (k := 6) (by decide) rfl hT6
  exact ht.ticksToCycleEnd_advance (batch_isz_T4 hd hsc) rfl (by simp) (by decide) (hsc ▸ rfl) hT5

end State.Executing

/-- The ticks left from T4 on, one class at a time: T0 to T3 are the four ticks before them. -/
theorem ticksToCycleEnd_addressed {i : Instr} (hf : i.family = .memoryReference) {s : State} (hq : s.q = [])
    (hs : s.s = true) : ∃ c, ticksToCycleEnd 3 (s.addressed (encode i)) = some c ∧ cycleTicks i = c + 4 := by
  have ht := addressed_executing hq hs (encode i)
  have hd : (s.addressed (encode i)).d = onehot8 i.opClass := by rw [addressed_d, opClassOf_encode]
  cases i <;> simp [Instr.family] at hf
  case and => exact ⟨2, ht.ticksToCycleEnd_T4 (.inl hd) rfl, rfl⟩
  case add => exact ⟨2, ht.ticksToCycleEnd_T4 (.inr (.inl hd)) rfl, rfl⟩
  case lda => exact ⟨2, ht.ticksToCycleEnd_T4 (.inr (.inr (.inl hd))) rfl, rfl⟩
  case sta => exact ⟨1, ht.ticksToCycleEnd_clear (batch_sta_T4 hd rfl) rfl (by simp) 2, rfl⟩
  case bun => exact ⟨1, ht.ticksToCycleEnd_clear (batch_bun_T4 hd rfl) rfl (by simp) 2, rfl⟩
  case bsa => exact ⟨2, ht.ticksToCycleEnd_T4 (.inr (.inr (.inr hd))) rfl, rfl⟩
  case isz => exact ⟨3, ht.ticksToCycleEnd_isz hd rfl, rfl⟩

/-! ### From T3 to the end, by family -/

theorem ticksToCycleEnd_memory {i : Instr} (hf : i.family = .memoryReference) {s : State} (hq : s.q = [])
    (hs : s.s = true) : ∃ c, ticksToCycleEnd 4 (s.fetched (encode i)) = some c ∧ cycleTicks i = c + 3 := by
  have hclass : opClassOf (encode i) ≠ 7 := opClassOf_encode i ▸ i.family_memory_iff.1 hf
  obtain ⟨c, hcount, hticks⟩ := ticksToCycleEnd_addressed hf hq hs
  exact ⟨c + 1, ticksToCycleEnd_of_next (tick_memory_T3 hclass hq hs) (by simp) hcount, hticks⟩

theorem cycleTicks_class7 {i : Instr} (hf : i.family ≠ .memoryReference) : cycleTicks i = 4 := by
  unfold cycleTicks
  cases hf' : i.family with
  | memoryReference => exact absurd hf' hf
  | registerReference => rfl
  | inputOutput => rfl

/-- The words of class 7 end in T3, whatever selectors they have (R139). -/
theorem ticksToCycleEnd_class7 {i : Instr} (hf : i.family ≠ .memoryReference) {s : State} (hq : s.q = [])
    (hs : s.s = true) (hc : completes i s = true) :
    ∃ c, ticksToCycleEnd 4 (s.fetched (encode i)) = some c ∧ cycleTicks i = c + 3 := by
  obtain ⟨t, he⟩ := (writeConflictsAreRefused i s).2 hc
  exact ⟨1, ticksToCycleEnd_last ((runCycle_class7 hf hq hs 0).trans he) (exec_sc he) 3, cycleTicks_class7 hf⟩

/-- Settles O15: three ticks fetch and decode (`runCycle_fetch`), and the word's family says how many remain. -/
theorem tickCounts : Obligations.TickCounts := by
  intro s hs hc
  have ⟨⟨_, hq, hrun, _⟩, _⟩ := hs
  have hword : s.readWord s.pc = encode (decode (s.readWord s.pc)) := (encode_decode _).symm
  have hfetch : runCycle 3 s = .next (s.fetched (s.readWord s.pc)) := runCycle_fetch hs 0
  generalize decode (s.readWord s.pc) = i at hword hc ⊢
  rw [hword] at hfetch
  obtain ⟨c, hcount, hticks⟩ :
      ∃ c, ticksToCycleEnd 4 (s.fetched (encode i)) = some c ∧ cycleTicks i = c + 3 := by
    by_cases hf : i.family = .memoryReference
    · exact ticksToCycleEnd_memory hf hq hrun
    · exact ticksToCycleEnd_class7 hf hq hrun hc
  rw [hticks]
  exact ticksToCycleEnd_add hfetch (by simp) hcount

end Sys2Proof.Machine
end

section
/-! PROOFS. How the host brings a program to run: Load (R270, R271), the memory it leaves (R72), and Start (R272). -/

namespace Sys2Proof.Machine

/-! ### When Load answers what (R246, R271) -/

theorem programInRange_iff (p : Program) : programInRange p = true ↔
    p.startAddress < 2 ^ 12 ∧ ∀ w ∈ p.instructions, w.address < 2 ^ 12 ∧ w.code < 2 ^ 16 := by
  simp [programInRange]

theorem programConflicts_iff (p : Program) :
    programConflicts p = true ↔ ¬ (p.instructions.map Emitted.address).Nodup := by
  simp [programConflicts]

theorem load_of_outOfRange {p : Program} (hr : programInRange p = false) (s : State) :
    load p s = .fault .valueOutOfRange := if_pos hr

theorem load_of_faulty {p : Program} (hr : programInRange p = true)
    (hf : p.errors ≠ [] ∨ programConflicts p = true) (s : State) : load p s = .refused .faultyProgram := by
  simp [load, hr, hf]

theorem load_of_sound {p : Program} (hr : programInRange p = true) (he : p.errors = [])
    (hc : programConflicts p = false) (s : State) : load p s = .next { State.reset with
      mem := loadedMemory p
      pc := BitVec.ofNat 12 p.startAddress
      host := s.host } := by
  simp [load, hr, he, hc]

/-- Two instructions at one address are a conflict, wherever they stand in the list (R106). -/
theorem programConflicts_of_shared_address {p : Program} {u v : Emitted} {before between after : List Emitted}
    (hp : p.instructions = before ++ u :: between ++ v :: after) (huv : u.address = v.address) :
    programConflicts p = true := by
  rw [programConflicts_iff, hp]
  simp [List.nodup_append, huv]

/-- Settles O58: Load checks the range first (`load_of_outOfRange`), then errors and conflicts (`load_of_faulty`). -/
theorem faultyProgramsAreNotLoaded : Obligations.FaultyProgramsAreNotLoaded := fun _ s =>
  ⟨fun hr => load_of_outOfRange hr s,
    fun hr he => load_of_faulty hr (.inl he) s,
    fun hr _ _ _ _ _ hp huv => load_of_faulty hr (.inr (programConflicts_of_shared_address hp huv)) s⟩

/-! ### The memory after Load (R72) -/

/-- The last word of a Program is the last one put in place. -/
theorem loadedMemory_concat (start : Nat) (ws : List Emitted) (w : Emitted) (labels : List Label)
    (errors : List AsmError) : loadedMemory ⟨start, ws ++ [w], labels, errors⟩ =
      (loadedMemory ⟨start, ws, labels, errors⟩).put w.address (loadedCell labels w) := by
  simp [loadedMemory]

theorem find_loadedMemory_of_unused {p : Program} {a : Nat} (ha : ∀ w ∈ p.instructions, w.address ≠ a) :
    (loadedMemory p).find a = Cell.blank := by
  obtain ⟨start, ws, labels, errors⟩ := p
  induction ws using List.reverseRecOn with
  | nil => rfl
  | append_singleton ws w ih =>
    have hw : a ≠ w.address := (ha w (by simp)).symm
    rw [loadedMemory_concat, Memory.find_put_other _ _ hw]
    exact ih fun v hv => ha v (List.mem_append_left _ hv)

/-- Where no two words share an address, none overwrites another. -/
theorem find_loadedMemory_of_mem {p : Program} (hc : programConflicts p = false) {w : Emitted}
    (hw : w ∈ p.instructions) : (loadedMemory p).find w.address = loadedCell p.labels w := by
  have hnodup : (p.instructions.map Emitted.address).Nodup :=
    not_not.1 ((programConflicts_iff p).not.1 (by simp [hc]))
  clear hc
  obtain ⟨start, ws, labels, errors⟩ := p
  induction ws using List.reverseRecOn with
  | nil => cases hw
  | append_singleton ws v ih =>
    rw [List.map_append, List.nodup_append] at hnodup
    obtain ⟨hws, -, hdisjoint⟩ := hnodup
    rw [loadedMemory_concat]
    rcases List.mem_append.1 hw with hmem | hlast
    · have hne : w.address ≠ v.address := hdisjoint _ (List.mem_map_of_mem hmem) _ (by simp)
      rw [Memory.find_put_other _ _ hne]
      exact ih hmem hws
    · obtain rfl := List.mem_singleton.1 hlast
      exact Memory.find_put_same _ _ _

/-- Settles O57: Load answers the reset state with the Program's memory (`load_of_sound`), whose cells are those of
`find_loadedMemory_of_mem` and `find_loadedMemory_of_unused`; the range check makes start address and codes fit. -/
theorem loadResetsAndPlacesTheProgram : Obligations.LoadResetsAndPlacesTheProgram := by
  intro p s hr he hc
  obtain ⟨hstart, hwords⟩ := (programInRange_iff p).1 hr
  refine ⟨_, load_of_sound hr he hc s, rfl, Nat.mod_eq_of_lt hstart, loadedMemory_wf hr, fun w hw => ?_,
    fun a ha => find_loadedMemory_of_unused ha⟩
  show ((loadedMemory p).find w.address).value.toNat = w.code
  rw [find_loadedMemory_of_mem hc hw]
  exact Nat.mod_eq_of_lt (hwords w hw).2

/-! ### Start (R272) -/

theorem start_of_startable {s : State} (hq : s.q = []) (hs : s.startable = true) :
    start s = .next { s with s := true, startable := false } := by
  simp [start, hq, hs]

theorem start_of_started {s : State} (hq : s.q = []) (hs : s.startable = false) :
    start s = .refused .startedAlready := by
  simp [start, hq, hs]

/-- Settles O56: the first Start answers a state that is no longer startable (`start_of_started`). -/
theorem startSetsOnlyTheRunFlagOnce : Obligations.StartSetsOnlyTheRunFlagOnce := by
  intro s hq hs
  have hfirst : hostAct .start s = .next { s with s := true, startable := false } := start_of_startable hq hs
  refine ⟨hfirst, fun t ht => ?_⟩
  obtain rfl := Host.Outcome.next.inj (hfirst.symm.trans ht)
  exact start_of_started hq rfl

end Sys2Proof.Machine
end
